-- ==== Sys2Proof/Word.lean ====
section
/-! DEFINITION. The widths of the part: bytes, memory words, word addresses, slots and segments. -/
namespace Sys2Proof

/-- A byte of a management frame (R165). -/
abbrev Byte := BitVec 8

/-- A memory word (00_scope.md 1.4). -/
abbrev Word := BitVec 32

/-- A word address, 0x000000 to 0x3FFFFF (00_scope.md 1.4). -/
abbrev Addr := BitVec 22

/-- A write's byte mask, lane 0 for bits 7..0 up to lane 3 for bits 31..24 (00_scope.md 1.4). -/
abbrev Lanes := BitVec 4

/-- The tag of an access at the memory port (R99). -/
abbrev Tag := BitVec 4

/-- A window slot (R1). -/
abbrev Slot := Fin 16

/-- A segment of a window (R3). -/
abbrev Segment := Fin 32

/-- A set of segments: bit n is segment n, as QUERY WINDOW carries it (section 11.5.3). -/
abbrev SegmentSet := BitVec 32

/-- A set of causes, one bit per cause (section 11.5.4). -/
abbrev CauseSet := BitVec 8

end Sys2Proof
end

