-- ==== Sys2Proof/Config.lean ====
section
/-! DEFINITION. What the part fixes once (capacities and full-reset settings, each with its rule) and the two free
values of the model: the order of events that fall on the same bridge clock (notes/assumptions/3.md). -/
namespace Sys2Proof.Config

/-- Requests a port's queue holds (R78). -/
abbrev portCapacity : Nat := 4

/-- Records the fault list holds (R160). -/
abbrev faultCapacity : Nat := 4

/-- The passover count at which a grant to HP is turned over to RE (R102). -/
abbrev passoverLimit : Nat := 16

/-- Intervals the watch keeps (R135). -/
abbrev historyLength : Nat := 8

/-- The value at which the late count stays (R46). -/
abbrev lateCountMax : Nat := 255

/-- Padding bytes a NOP may carry (R169). -/
abbrev maxPadding : Nat := 32

/-- The memory answer timeout exponent after a full reset (R99). -/
abbrev resetTimeout : Nat := 10

/-- The period after a full reset (R124). -/
abbrev resetPeriod : Nat := 1000

/-- The watch's MAX after a full reset (R135). -/
abbrev resetWatchMax : Nat := 65535

/-- The trip filter's depth after a full reset (R143). -/
abbrev resetTripDepth : Nat := 4

/-- FREE VALUE (notes/assumptions/3.md). When a sample of BND and a watch step fall on one bridge clock, R138 leaves
their order open: true takes the watch step first. The argument is the counter `State.choices`. -/
opaque watchStepFirst : Nat → Bool

/-- FREE VALUE (notes/assumptions/3.md). When a sample of TRP and a watch step fall on one bridge clock, either may
reach the trip unit first (R146, R153): true takes the trip sample first. -/
opaque tripSampleFirst : Nat → Bool

end Sys2Proof.Config
end

