-- ==== Sys2Proof/Syntax.lean ====
section
/-! DEFINITION. The commands of the part: one constructor of `Instr` per row of spec/opcode_table.json, with its
operands. A command of the management link carries the operand BYTES of section 11.5 as they stand in the frame, so
that every value a frame can carry, refused ones included, is an operand. -/
namespace Sys2Proof

/-- A port of the bridge toward a bus master (R78). -/
inductive PortId where
  | host
  | consumer
deriving DecidableEq, Repr

/-- What an access does: a read of the whole word, or a write of the lanes of a mask (R78). -/
inductive Op where
  | read
  | write (mask : Lanes) (data : Word)
deriving DecidableEq, Repr

/-- A request a master offers at a port (R78). -/
structure Request where
  addr : Addr
  op   : Op
deriving DecidableEq, Repr

/-- What the SRAM answers: OK, with the word read for a read (the word beside the OK of a write is not used), or
FAULT (R104). -/
inductive SramAnswer where
  | ok (word : Word)
  | fault
deriving DecidableEq, Repr

/-- The level of a line; for TRP, high is ASSERTED (R144). -/
inductive Level where
  | low
  | high
deriving DecidableEq, Repr

/-- The 25 operand bytes of DEFINE (section 11.5.2), gathered into their fields, none of them checked yet. -/
structure DefineOperands where
  slot     : Byte
  sizeExp  : Byte
  flags    : Byte
  cadence  : Byte
  logical  : BitVec 24
  bankA    : BitVec 24
  bankB    : BitVec 24
  safe     : BitVec 24
  stamp    : BitVec 24
  closing  : BitVec 16
  fill     : Word
deriving DecidableEq, Repr

/-- The commands, one constructor per row of spec/opcode_table.json, in the table's order. -/
inductive Instr where
  /-- FULL_RESET (R171): RSTn is held low and rises; `csnLow` says that CSn is low when it rises. -/
  | fullReset (csnLow : Bool)
  /-- FRAME_NOT_TAKEN (R166): CSn rises after a frame of these bits, in the order received. -/
  | frameNotTaken (bits : List Bool)
  /-- NOP (R169), with its padding bytes. -/
  | nop (padding : List Byte)
  /-- QUERY DEVICE (R170). -/
  | queryDevice
  /-- DEFINE (R6 to R8). -/
  | define (ops : DefineOperands)
  /-- ENABLE (R10). -/
  | enable (slot : Byte)
  /-- DISABLE (R13). -/
  | disable (slot : Byte)
  /-- CLEAR (R15). -/
  | clear (slot : Byte)
  /-- HOLD (R11). -/
  | hold (slot : Byte)
  /-- RELEASE (R12). -/
  | release (slot : Byte)
  /-- ABORT (R32). -/
  | abort (slot : Byte)
  /-- QUERY WINDOW (R19). -/
  | queryWindow (slot : Byte)
  /-- PT SET (R128). -/
  | ptSet (exponent mode selection : Byte) (period : BitVec 16)
  /-- PT START (R130). -/
  | ptStart
  /-- PT STOP (R130). -/
  | ptStop
  /-- PT QUERY (R131). -/
  | ptQuery
  /-- FORCE BOUNDARY (R141). -/
  | forceBoundary (source : Byte)
  /-- LINE SET (R133). -/
  | lineSet (exponent depth : Byte)
  /-- WATCH SET (R139). -/
  | watchSet (enable exponent : Byte) (min max : BitVec 16) (tripOnLost : Byte)
  /-- WATCH QUERY (R140). -/
  | watchQuery
  /-- TRIP SET (R145). -/
  | tripSet (exponent depth enable : Byte)
  /-- TRIP NOW (R146). -/
  | tripNow
  /-- TRIP RELEASE (R148). -/
  | tripRelease
  /-- READ CAUSES (R159). -/
  | readCauses
  /-- CLEAR CAUSES (R159). -/
  | clearCauses (causes : Byte)
  /-- SET MASK (R159). -/
  | setMask (causes : Byte)
  /-- READ FAULT (R161). -/
  | readFault
  /-- READ REFUSAL (R162). -/
  | readRefusal
  /-- MEMORY SET (R107). -/
  | memorySet (setting : Byte)
  /-- SOFT RESET (R172). -/
  | softReset
  /-- REQUEST_ACCEPT (R78): the master of a port offers a request. -/
  | requestAccept (port : PortId) (request : Request)
  /-- HOST_TAKE_IN_SERVICE (R81, R84). -/
  | hostTakeInService
  /-- CONSUMER_TAKE_IN_SERVICE (R81, R88). -/
  | consumerTakeInService
  /-- PARKED_WRITE_TRANSLATE_AFRESH (R66). -/
  | parkedWriteTranslateAfresh
  /-- MEMORY_GRANT (R101). -/
  | memoryGrant
  /-- MEMORY_ANSWER (R104, R105): the SRAM gives an answer with a tag. -/
  | memoryAnswer (tag : Tag) (answer : SramAnswer)
  /-- ACCESS_TIMEOUT (R106). -/
  | accessTimeout
  /-- RESYNC_TAKE_IN_FLIGHT (R60). -/
  | resyncTakeInFlight
  /-- PT_COUNT_STEP (R125). -/
  | ptCountStep
  /-- LINE_SAMPLE (R132), with the level of BND that is sampled. -/
  | lineSample (bnd : Level)
  /-- WATCH_STEP (R136). -/
  | watchStep
  /-- TRIP_SAMPLE (R144), with the level of TRP that is sampled. -/
  | tripSample (trp : Level)
  /-- WINDOW_TAKE_BOUNDARY (R36), at the window of a slot. -/
  | windowTakeBoundary (slot : Slot)
  /-- CSN_FALL (R165). -/
  | csnFall
  /-- DISCARDED_FRAME (R171): CSn rises at the end of a frame that fell before or during a full reset. -/
  | discardedFrame
deriving DecidableEq, Repr

end Sys2Proof
end

