-- ==== Sys2Proof/Decode.lean ====
section
/-! DEFINITION. The frames of the management link (sections 11.1 and 11.5): how a command is laid out in a frame, and
how the link judges a frame when CSn rises (R166). The table gives no row bits, so `decodeTableWord` reads none. -/
namespace Sys2Proof

/-- The command a word of spec/opcode_table.json spells. No row of the table has bits, so there is none. -/
def decodeTableWord (_nbits _w : Nat) : Option Instr := none

/-! ### Status codes (R168) -/

/-- The status byte of a response (R168). -/
inductive Status where
  | done
  | idle
  | badCheck
  | badLength
  | badCommand
  | badSlot
  | badState
  | badParam
  | overlap
  | empty
deriving DecidableEq, Repr

/-- The code of a status (the table of R168). -/
def Status.code : Status → Byte
  | .done       => 0x00#8
  | .idle       => 0x01#8
  | .badCheck   => 0x10#8
  | .badLength  => 0x11#8
  | .badCommand => 0x12#8
  | .badSlot    => 0x20#8
  | .badState   => 0x21#8
  | .badParam   => 0x22#8
  | .overlap    => 0x23#8
  | .empty      => 0x24#8

/-! ### Bytes and bits -/

/-- The bits of a byte, most significant first (R165). -/
def byteBits (b : Byte) : List Bool :=
  [b.getLsbD 7, b.getLsbD 6, b.getLsbD 5, b.getLsbD 4, b.getLsbD 3, b.getLsbD 2, b.getLsbD 1, b.getLsbD 0]

/-- The bits of a run of bytes, in the order they cross the link. -/
def bytesBits (bs : List Byte) : List Bool := bs.flatMap byteBits

/-- The byte of eight bits, most significant first. -/
def byteOfBits (b7 b6 b5 b4 b3 b2 b1 b0 : Bool) : Byte :=
  BitVec.ofNat 8 (128 * b7.toNat + 64 * b6.toNat + 32 * b5.toNat + 16 * b4.toNat + 8 * b3.toNat + 4 * b2.toNat
    + 2 * b1.toNat + b0.toNat)

/-- Bits gathered into bytes as they are received, and the bits left over (R165). -/
def gatherBytes : List Bool → List Byte × List Bool
  | b7 :: b6 :: b5 :: b4 :: b3 :: b2 :: b1 :: b0 :: rest =>
    (byteOfBits b7 b6 b5 b4 b3 b2 b1 b0 :: (gatherBytes rest).1, (gatherBytes rest).2)
  | left => ([], left)

/-- The check byte of a run of bytes: the inverse of their XOR (R165). -/
def checkByte (bs : List Byte) : Byte := ~~~ bs.foldl (· ^^^ ·) 0#8

/-- Two bytes, high byte first (R173). -/
def bytes2 (v : BitVec 16) : List Byte := [v.extractLsb' 8 8, v.extractLsb' 0 8]

/-- Three bytes, high byte first (R173). -/
def bytes3 (v : BitVec 24) : List Byte := [v.extractLsb' 16 8, v.extractLsb' 8 8, v.extractLsb' 0 8]

/-- Four bytes, high byte first (R173). -/
def bytes4 (v : BitVec 32) : List Byte :=
  [v.extractLsb' 24 8, v.extractLsb' 16 8, v.extractLsb' 8 8, v.extractLsb' 0 8]

/-- A 22-bit word address in three bytes, the top two bits zero (R173). -/
def addrBytes (a : Addr) : List Byte := bytes3 (a.setWidth 24)

/-- One byte of a count that fits a byte. -/
def byteOf (n : Nat) : Byte := BitVec.ofNat 8 n

/-- Two bytes of a count that fits sixteen bits. -/
def bytesOf2 (n : Nat) : List Byte := bytes2 (BitVec.ofNat 16 n)

/-! ### Commands in frames -/

/-- The operand bytes of DEFINE (section 11.5.2). -/
def DefineOperands.bytes (d : DefineOperands) : List Byte :=
  [d.slot, d.sizeExp, d.flags, d.cadence] ++ bytes3 d.logical ++ bytes3 d.bankA ++ bytes3 d.bankB ++ bytes3 d.safe
    ++ bytes3 d.stamp ++ bytes2 d.closing ++ bytes4 d.fill

/-- The command code and the operand bytes of a command of the management link (section 11.5.1); none for a row that
is not sent in a frame. -/
def commandBody : Instr → Option (List Byte)
  | .nop padding          => some (0x00#8 :: padding)
  | .queryDevice          => some [0x01#8]
  | .define ops           => some (0x10#8 :: ops.bytes)
  | .enable slot          => some [0x11#8, slot]
  | .disable slot         => some [0x12#8, slot]
  | .clear slot           => some [0x13#8, slot]
  | .hold slot            => some [0x14#8, slot]
  | .release slot         => some [0x15#8, slot]
  | .abort slot           => some [0x16#8, slot]
  | .queryWindow slot     => some [0x17#8, slot]
  | .ptSet e m sel p      => some ([0x20#8, e, m, sel] ++ bytes2 p)
  | .ptStart              => some [0x21#8]
  | .ptStop               => some [0x22#8]
  | .ptQuery              => some [0x23#8]
  | .forceBoundary source => some [0x24#8, source]
  | .lineSet e d          => some [0x28#8, e, d]
  | .watchSet en e mn mx t => some ([0x29#8, en, e] ++ bytes2 mn ++ bytes2 mx ++ [t])
  | .watchQuery           => some [0x2A#8]
  | .tripSet e d en       => some [0x30#8, e, d, en]
  | .tripNow              => some [0x31#8]
  | .tripRelease          => some [0x32#8]
  | .readCauses           => some [0x38#8]
  | .clearCauses causes   => some [0x39#8, causes]
  | .setMask causes       => some [0x3A#8, causes]
  | .readFault            => some [0x3B#8]
  | .readRefusal          => some [0x3C#8]
  | .memorySet setting    => some [0x40#8, setting]
  | .softReset            => some [0x7F#8]
  | .fullReset _ | .frameNotTaken _ | .requestAccept _ _ | .hostTakeInService | .consumerTakeInService
  | .parkedWriteTranslateAfresh | .memoryGrant | .memoryAnswer _ _ | .accessTimeout | .resyncTakeInFlight
  | .ptCountStep | .lineSample _ | .watchStep | .tripSample _ | .windowTakeBoundary _ | .csnFall
  | .discardedFrame       => none

/-- The whole frame of a command: its code, its operands and the check byte (R165). -/
def encodeFrame (c : Instr) : Option (List Byte) := (commandBody c).map fun body => body ++ [checkByte body]

/-- The operands of DEFINE read from their 25 bytes (section 11.5.2). -/
def readDefine : List Byte → Option DefineOperands
  | [slot, k, flags, n, l2, l1, l0, a2, a1, a0, b2, b1, b0, s2, s1, s0, t2, t1, t0, c1, c0, f3, f2, f1, f0] =>
    some { slot := slot, sizeExp := k, flags := flags, cadence := n,
           logical := l2 ++ l1 ++ l0, bankA := a2 ++ a1 ++ a0, bankB := b2 ++ b1 ++ b0,
           safe := s2 ++ s1 ++ s0, stamp := t2 ++ t1 ++ t0, closing := c1 ++ c0, fill := f3 ++ f2 ++ f1 ++ f0 }
  | _ => none

/-- A command with no operand. -/
def readNone (c : Instr) : List Byte → Option Instr
  | [] => some c
  | _  => none

/-- A command with one operand byte. -/
def readOne (c : Byte → Instr) : List Byte → Option Instr
  | [b] => some (c b)
  | _   => none

/-- A command with two operand bytes. -/
def readTwo (c : Byte → Byte → Instr) : List Byte → Option Instr
  | [a, b] => some (c a b)
  | _      => none

/-- A command with three operand bytes. -/
def readThree (c : Byte → Byte → Byte → Instr) : List Byte → Option Instr
  | [a, b, d] => some (c a b d)
  | _         => none

/-- PT SET from its five operand bytes. -/
def readPtSet : List Byte → Option Instr
  | [e, m, sel, p1, p0] => some (.ptSet e m sel (p1 ++ p0))
  | _                   => none

/-- WATCH SET from its seven operand bytes. -/
def readWatchSet : List Byte → Option Instr
  | [en, e, mn1, mn0, mx1, mx0, t] => some (.watchSet en e (mn1 ++ mn0) (mx1 ++ mx0) t)
  | _                              => none

/-- NOP from its padding bytes, 32 at the most (R169). -/
def readNop (padding : List Byte) : Option Instr :=
  if padding.length ≤ Config.maxPadding then some (.nop padding) else none

/-- The reader of the operands of a command code (section 11.5.1); none when the code is not one of the table's. A
reader answers none when the number of operand bytes is not the command's. -/
def operandReader (code : Byte) : Option (List Byte → Option Instr) :=
  match code.toNat with
  | 0x00 => some readNop
  | 0x01 => some (readNone .queryDevice)
  | 0x10 => some fun ops => (readDefine ops).map .define
  | 0x11 => some (readOne .enable)
  | 0x12 => some (readOne .disable)
  | 0x13 => some (readOne .clear)
  | 0x14 => some (readOne .hold)
  | 0x15 => some (readOne .release)
  | 0x16 => some (readOne .abort)
  | 0x17 => some (readOne .queryWindow)
  | 0x20 => some readPtSet
  | 0x21 => some (readNone .ptStart)
  | 0x22 => some (readNone .ptStop)
  | 0x23 => some (readNone .ptQuery)
  | 0x24 => some (readOne .forceBoundary)
  | 0x28 => some (readTwo .lineSet)
  | 0x29 => some readWatchSet
  | 0x2A => some (readNone .watchQuery)
  | 0x30 => some (readThree .tripSet)
  | 0x31 => some (readNone .tripNow)
  | 0x32 => some (readNone .tripRelease)
  | 0x38 => some (readNone .readCauses)
  | 0x39 => some (readOne .clearCauses)
  | 0x3A => some (readOne .setMask)
  | 0x3B => some (readNone .readFault)
  | 0x3C => some (readNone .readRefusal)
  | 0x40 => some (readOne .memorySet)
  | 0x7F => some (readNone .softReset)
  | _    => none

/-- The judgement of a frame at the CSn rise, the first failure found (R166): an incomplete byte or fewer than two
bytes, the check byte, the command code, the length. A frame that passes is the command it carries. -/
def judgeFrame (bits : List Bool) : Except Status Instr :=
  let bytes := (gatherBytes bits).1
  let body := bytes.dropLast
  if (gatherBytes bits).2 ≠ [] ∨ bytes.length < 2 then .error .badLength
  else if bytes.getLast? ≠ some (checkByte body) then .error .badCheck
  else match body with
    | [] => .error .badLength
    | code :: ops =>
      match operandReader code with
      | none => .error .badCommand
      | some read =>
        match read ops with
        | none   => .error .badLength
        | some c => .ok c

/-- The echo of a frame: its first whole byte, or 0xFF when none was received (R166). -/
def frameEcho (bits : List Bool) : Byte := (gatherBytes bits).1.headD 0xFF#8

end Sys2Proof
end

