-- ==== Sys2Proof/Machine/State.lean ====
section
/-! DEFINITION. The state of the bridge: every register, queue, counter, mode and line the spec gives it, block by
block, with the full-reset values (R20, R56, R76, R96, R99, R112, R122, R124, R132, R135, R143, R163, R168); and the
ways a step can stop. -/
namespace Sys2Proof.Machine

/-! ### Windows (chapter 1, chapter 2) -/

/-- A physical bank (00_scope.md 1.4). -/
inductive Bank where
  | a
  | b
deriving DecidableEq, Repr

/-- A boundary source (R2). -/
inductive Source where
  | pt
  | bx
deriving DecidableEq, Repr

/-- The bank host reads of a window see (R2). -/
inductive HostView where
  | shadow
  | live
deriving DecidableEq, Repr

/-- A window's lifecycle (R9). -/
inductive Lifecycle where
  | unused
  | defined
  | active
  | held
  | faulted
deriving DecidableEq, Repr

/-- The phase of a window's update (R22). -/
inductive Phase where
  | clean
  | staging
  | complete
deriving DecidableEq, Repr

/-- A window descriptor (R2). -/
structure Descriptor where
  /-- k: the window has 2^k words. -/
  sizeExp       : Nat
  logicalBase   : Addr
  bankABase     : Addr
  bankBBase     : Addr
  safeBase      : Option Addr
  fillWord      : Word
  source        : Source
  /-- N: every Nth boundary of the source is eligible. -/
  cadence       : Nat
  closingOffset : Nat
  singleShot    : Bool
  hostView      : HostView
  /-- The descriptor's "protected": trips redirect the window's consumer reads. -/
  tripProtected : Bool
  stampAddr     : Option Addr
deriving DecidableEq, Repr

/-- A boundary as the boundary unit hands it over (R36). -/
structure Boundary where
  source : Source
  seq    : BitVec 32
deriving DecidableEq, Repr

/-- A window record (R1): descriptor, lifecycle and runtime part (R18, R22). -/
structure Window where
  desc         : Option Descriptor
  life         : Lifecycle
  live         : Bank
  /-- The generation (R18). -/
  gen          : BitVec 16
  phase        : Phase
  dirty        : SegmentSet
  cadenceCount : Nat
  lateCount    : Nat
  /-- Boundaries delivered to the window and not yet taken, oldest first (R36; notes/assumptions/14.md). -/
  inbox        : List Boundary
deriving DecidableEq, Repr

/-- A window record after a full reset (R20). -/
def Window.initial : Window :=
  { desc := none, life := .unused, live := .a, gen := 0, phase := .clean, dirty := 0, cadenceCount := 0,
    lateCount := 0, inbox := [] }

/-! ### Resync engine (chapter 4) and stamp writer (chapter 7) -/

/-- Whether an access of a client is waiting for its grant or for its answer (R59, R112). -/
inductive Stage where
  | requested
  | granted
deriving DecidableEq, Repr

/-- An entry of the resync queue (R56). -/
structure Entry where
  slot : Slot
  seg  : Segment
deriving DecidableEq, Repr

/-- The step of a copy: the read of a word, or the write of the copy data the read gave (R59, R61). -/
inductive CopyStep where
  | read
  | write (data : Word)
deriving DecidableEq, Repr

/-- The copy of the in-flight entry, which is the head of the queue (R59). -/
structure Copy where
  /-- The offset within the segment of the word being copied. -/
  index : Nat
  step  : CopyStep
  stage : Stage
deriving DecidableEq, Repr

/-- The resync engine (R56, R59). -/
structure ResyncEngine where
  queue    : List Entry
  /-- Present exactly while the head entry is in flight. -/
  copy     : Option Copy
  awaited  : Option Entry
  /-- A granted access of a purged entry is still to be answered (R69). -/
  orphaned : Bool
deriving DecidableEq, Repr

/-- The write of a stamp record under way (R112). -/
inductive StampStep where
  | word1
  | word0
deriving DecidableEq, Repr

/-- A stamp record (R112). -/
structure StampRecord where
  slot       : Slot
  stampAddr  : Addr
  gen        : BitVec 16
  live       : Bank
  lateCount  : Nat
  held       : Bool
  enable     : Bool
  seq        : BitVec 32
deriving DecidableEq, Repr

/-- The stamp writer (R112). The step and the stage have meaning only while the queue is not empty. -/
structure StampWriter where
  queue     : List StampRecord
  step      : StampStep
  stage     : Stage
  /-- A granted write of a removed record is still to be answered (R118, R119). -/
  discarded : Bool
deriving DecidableEq, Repr

/-! ### Ports (chapter 5) and memory port (chapter 6) -/

/-- What translation gave a request: its physical address, the slot it names at the memory port (R100), and whether a
host write was staged by R23 (the condition of R27). -/
structure Translated where
  addr   : Addr
  slot   : Option Slot
  staged : Bool
deriving DecidableEq, Repr

/-- A port's service state (R80). Only the host port uses `parked`. -/
inductive Service where
  | idle
  | requesting (t : Translated)
  | awaiting (t : Translated)
  | parked
deriving DecidableEq, Repr

/-- A port (R80). -/
structure Port where
  /-- Accepted requests, the one in service first. -/
  queue   : List Request
  service : Service
  /-- The offers that a full queue holds off, oldest first (R78; notes/assumptions/7.md). -/
  offers  : List Request
deriving DecidableEq, Repr

/-- The code of a port's response (R79). -/
inductive ResponseCode where
  | ok
  | refused
  | fault
  | aborted
deriving DecidableEq, Repr

/-- A port's response (R79). -/
structure PortResponse where
  code : ResponseCode
  data : Word
deriving DecidableEq, Repr

/-- The four clients of the memory port (R99). -/
inductive Client where
  | hp
  | cp
  | re
  | sw
deriving DecidableEq, Repr

/-- A request at the memory port, and the access it becomes (R99, R100). -/
structure Access where
  client : Client
  op     : Op
  addr   : Addr
  slot   : Option Slot
deriving DecidableEq, Repr

/-- The access awaiting its answer (R99). -/
structure AwaitingAccess where
  access : Access
  tag    : Tag
  /-- The limit in bridge clocks it was granted with; none when the timeout was OFF. -/
  limit  : Option Nat
  /-- Bridge clocks since the grant. -/
  clocks : Nat
deriving DecidableEq, Repr

/-- The memory port (R99). -/
structure MemoryPort where
  awaiting : Option AwaitingAccess
  tag      : Tag
  passover : Nat
  /-- None for OFF, or the exponent k. -/
  timeout  : Option Nat
deriving DecidableEq, Repr

/-! ### Boundary unit (chapter 8) and trip unit (chapter 9) -/

/-- The direction of the period timer (R124). -/
inductive Direction where
  | up
  | down
deriving DecidableEq, Repr

/-- The mode of the period timer (R124). -/
inductive TimerMode where
  | saw
  | tri
deriving DecidableEq, Repr

/-- Which turns of the triangle deliver boundaries (R124). -/
inductive Selection where
  | peak
  | trough
  | both
deriving DecidableEq, Repr

/-- The period timer (R124). -/
structure PeriodTimer where
  running       : Bool
  count         : Nat
  direction     : Direction
  prescale      : Nat
  exponent      : Nat
  mode          : TimerMode
  selection     : Selection
  /-- P. -/
  period        : Nat
  pendingPeriod : Option Nat
deriving DecidableEq, Repr

/-- A line filter: that of BND (R132) or that of TRP (R143, R144). -/
structure Filter where
  level    : Level
  run      : Nat
  prescale : Nat
  exponent : Nat
  depth    : Nat
deriving DecidableEq, Repr

/-- The boundary watch (R135). The last interval is computed from the history. -/
structure Watch where
  enable     : Bool
  exponent   : Nat
  min        : Nat
  max        : Nat
  tripOnLost : Bool
  count      : Nat
  prescale   : Nat
  first      : Bool
  /-- Accepted intervals, oldest first. -/
  history    : List Nat
deriving DecidableEq, Repr

/-- The boundary unit (R122, R124, R132, R135). -/
structure BoundaryUnit where
  ptSeq : BitVec 32
  bxSeq : BitVec 32
  pt    : PeriodTimer
  line  : Filter
  watch : Watch
deriving DecidableEq, Repr

/-- The trip state (R143). -/
inductive TripState where
  | normal
  | tripped
  | restoring
deriving DecidableEq, Repr

/-- The reason of a trip (R143). -/
inductive TripReason where
  | line
  | watch
  | command
deriving DecidableEq, Repr

/-- A window's consumer view (R143). -/
inductive View where
  | live
  | safe
deriving DecidableEq, Repr

/-- An entry of the protection view table (R143). -/
structure ViewEntry where
  view           : View
  restorePending : Bool
deriving DecidableEq, Repr

/-- The trip unit (R143). -/
structure TripUnit where
  state    : TripState
  reason   : Option TripReason
  lineTrip : Bool
  filter   : Filter
  views    : Vector ViewEntry 16
deriving DecidableEq, Repr

/-! ### Attention unit (chapter 10) and management link (chapter 11) -/

/-- The kind of a memory failure (R108). -/
inductive FaultKind where
  | fault
  | timeout
deriving DecidableEq, Repr

/-- A fault record (R108). -/
structure FaultRecord where
  origin  : Client
  kind    : FaultKind
  isWrite : Bool
  addr    : Addr
  slot    : Option Slot
deriving DecidableEq, Repr

/-- The reason of a refusal (R91). -/
inductive Reason where
  | concealed
  | stampWrite
  | consumerWrite
  | held
  | faulted
deriving DecidableEq, Repr

/-- The last refusal record (R156, R162). -/
structure RefusalRecord where
  port   : PortId
  addr   : Addr
  reason : Reason
deriving DecidableEq, Repr

/-- The attention unit (R156). -/
structure AttentionUnit where
  causes  : CauseSet
  enables : CauseSet
  faults  : List FaultRecord
  refusal : Option RefusalRecord
deriving DecidableEq, Repr

/-- Where the link stands between falls and rises of CSn (R165, R171). -/
inductive FrameState where
  | none
  | receiving
  /-- The frame under way fell before or during a full reset and is not taken (R171). -/
  | discarding
deriving DecidableEq, Repr

/-- A response of the link, less its check byte, which is computed (R168). -/
structure LinkResponse where
  status : Byte
  echo   : Byte
  data   : List Byte
deriving DecidableEq, Repr

/-- The management link (R165, R168). -/
structure ManagementLink where
  frame    : FrameState
  /-- The receive frame. -/
  rx       : List Bool
  /-- The response buffer. -/
  response : LinkResponse
  /-- MODEL'S OWN: the bits shifted out on SDO during the last frame ended (notes/assumptions/13.md). -/
  sdo      : List Bool
deriving DecidableEq, Repr

/-! ### Lines and records of outputs -/

/-- The levels of the two sampled lines (00_scope.md 1.5; notes/assumptions/12.md). -/
structure Pins where
  bnd : Level
  trp : Level
deriving DecidableEq, Repr

/-- An access as it reaches the SRAM, with its tag (R103). -/
structure IssuedAccess where
  access : Access
  tag    : Tag
deriving DecidableEq, Repr

/-- MODEL'S OWN: what the bridge has given the host, the consumer and the SRAM, oldest first
(notes/assumptions/13.md). -/
structure Outputs where
  host     : List PortResponse
  consumer : List PortResponse
  accesses : List IssuedAccess
deriving DecidableEq, Repr

/-- The state of the bridge, block by block (00_scope.md 1.2), with the lines, the records of outputs, the counter of
free values and the commands that wait. -/
structure State where
  windows : Vector Window 16
  re      : ResyncEngine
  sw      : StampWriter
  hp      : Port
  cp      : Port
  mp      : MemoryPort
  bu      : BoundaryUnit
  tu      : TripUnit
  au      : AttentionUnit
  ml      : ManagementLink
  pins    : Pins
  out     : Outputs
  /-- MODEL'S OWN: how many free values have been drawn (notes/assumptions/3.md). -/
  choices : Nat
  /-- The commands that wait, first in, first out (notes/assumptions/1.md). -/
  pending : List Instr
deriving DecidableEq, Repr

/-- The ways a step can stop with a fault: there is none. Every row of the table has an effect in every state
(notes/assumptions/5.md), and memory failures, refused requests and refused commands are effects, not stops. -/
inductive Fault where
deriving DecidableEq, Repr

/-- The ways a command can be refused. -/
inductive Refusal where
  /-- Raised by an arm of exec whose command has no meaning yet; no arm of this model raises it. Safe. -/
  | notModelled (mnemonic : String)
deriving DecidableEq, Repr

/-! ### Full-reset values -/

/-- The IDLE response: status 0x01, echo 0xFF, no data (R168). -/
def LinkResponse.idle : LinkResponse := { status := 0x01#8, echo := 0xFF#8, data := [] }

/-- A line filter after a full reset: level LOW, counts 0, e = 0, and its depth (R132, R143). -/
def Filter.initial (depth : Nat) : Filter := { level := .low, run := 0, prescale := 0, exponent := 0, depth := depth }

/-- A port after a full reset: IDLE with an empty queue (R80, R96), and no offer held off (notes/assumptions/7.md). -/
def Port.initial : Port := { queue := [], service := .idle, offers := [] }

/-- The resync engine after either reset (R56, R59). -/
def ResyncEngine.initial : ResyncEngine := { queue := [], copy := none, awaited := none, orphaned := false }

/-- The stamp writer after either reset (R112). The step and stage of the empty queue are DESIGN CHOICE
(notes/assumptions/18.md). -/
def StampWriter.initial : StampWriter := { queue := [], step := .word1, stage := .requested, discarded := false }

/-- The memory port after a full reset (R99). -/
def MemoryPort.initial : MemoryPort :=
  { awaiting := none, tag := 0, passover := 0, timeout := some Config.resetTimeout }

/-- The period timer after a full reset (R124). -/
def PeriodTimer.initial : PeriodTimer :=
  { running := false, count := 0, direction := .up, prescale := 0, exponent := 0, mode := .saw, selection := .peak,
    period := Config.resetPeriod, pendingPeriod := none }

/-- The watch after a full reset (R135). -/
def Watch.initial : Watch :=
  { enable := false, exponent := 0, min := 1, max := Config.resetWatchMax, tripOnLost := false, count := 0,
    prescale := 0, first := true, history := [] }

/-- The boundary unit after a full reset (R122, R124, R132, R135). -/
def BoundaryUnit.initial : BoundaryUnit :=
  { ptSeq := 0, bxSeq := 0, pt := .initial, line := .initial 1, watch := .initial }

/-- An entry of the view table in LIVE with no restore pending (R143). -/
def ViewEntry.initial : ViewEntry := { view := .live, restorePending := false }

/-- The trip unit after a full reset (R143). -/
def TripUnit.initial : TripUnit :=
  { state := .normal, reason := none, lineTrip := false, filter := .initial Config.resetTripDepth,
    views := Vector.replicate 16 .initial }

/-- The attention unit after a full reset (R163). -/
def AttentionUnit.initial : AttentionUnit := { causes := 0, enables := 0, faults := [], refusal := none }

/-- The link after a full reset: the IDLE response in the buffer (R168). No frame open and an empty receive frame are
DESIGN CHOICE (notes/assumptions/19.md), the empty record of SDO too (notes/assumptions/13.md). -/
def ManagementLink.initial : ManagementLink := { frame := .none, rx := [], response := .idle, sdo := [] }

/-- The bridge after power-up: every block at its full-reset values (R171). The levels of the lines
(notes/assumptions/12.md), the empty records (13.md), the counter of free values (3.md) and the empty queue of
commands (1.md) are DESIGN CHOICE. -/
def State.reset : State :=
  { windows := Vector.replicate 16 .initial, re := .initial, sw := .initial, hp := .initial, cp := .initial,
    mp := .initial, bu := .initial, tu := .initial, au := .initial, ml := .initial,
    pins := { bnd := .low, trp := .low }, out := { host := [], consumer := [], accesses := [] },
    choices := 0, pending := [] }

end Sys2Proof.Machine
end

