-- ==== Sys2Proof/Machine/Flags.lean ====
section
/-! DEFINITION. The attention unit's marks: the causes and their bits, ATN, the fault list and the last refusal record
(chapter 10). -/
namespace Sys2Proof.Machine

/-- The eight causes (R156). -/
inductive Cause where
  | trip
  | windowFault
  | lateFlip
  | earlyBoundary
  | lostBoundary
  | memoryFault
  | faultOverflow
  | refusal
deriving DecidableEq, Repr

/-- The bit of a cause in a cause set (section 11.5.4). -/
def Cause.mask : Cause → CauseSet
  | .trip          => 0x01#8
  | .windowFault   => 0x02#8
  | .lateFlip      => 0x04#8
  | .earlyBoundary => 0x08#8
  | .lostBoundary  => 0x10#8
  | .memoryFault   => 0x20#8
  | .faultOverflow => 0x40#8
  | .refusal       => 0x80#8

/-- Raising a cause puts it in the cause set (R157). -/
def AttentionUnit.raise (au : AttentionUnit) (c : Cause) : AttentionUnit := { au with causes := au.causes ||| c.mask }

/-- A cause is present in the cause set (R156). -/
def AttentionUnit.present (au : AttentionUnit) (c : Cause) : Bool := decide (au.causes &&& c.mask ≠ 0#8)

/-- ATN is asserted while the cause set and the enable set have a cause in common (R158). -/
def AttentionUnit.atn (au : AttentionUnit) : Bool := decide (au.causes &&& au.enables ≠ 0#8)

/-- A fault record handed over: appended with MEMORY_FAULT, or dropped with FAULT_OVERFLOW when the list is full
(R160). -/
def AttentionUnit.takeFault (au : AttentionUnit) (r : FaultRecord) : AttentionUnit :=
  if au.faults.length < Config.faultCapacity then { au with faults := au.faults ++ [r] }.raise .memoryFault
  else au.raise .faultOverflow

/-- A refusal report: it replaces the last refusal record and raises REFUSAL (R162). -/
def AttentionUnit.takeRefusal (au : AttentionUnit) (r : RefusalRecord) : AttentionUnit :=
  { au with refusal := some r }.raise .refusal

/-- The attention unit after a soft reset: the enable set is kept (R164). -/
def AttentionUnit.softReset (au : AttentionUnit) : AttentionUnit := { au with causes := 0, faults := [], refusal := none }

/-- A block hands a cause to the attention unit (R157). -/
def State.raise (s : State) (c : Cause) : State := { s with au := s.au.raise c }

/-- The line ATN (R158). -/
def State.atn (s : State) : Bool := s.au.atn

end Sys2Proof.Machine
end

