-- ==== Sys2Proof/Machine/Operands.lean ====
section
/-! DEFINITION. Operands and codes: what a descriptor says of its window (R2 to R4), how the operand bytes of a command
are read (section 11.5), and how a field is coded in a response (section 11.5.4). -/
namespace Sys2Proof.Machine

/-! ### Banks, sizes and segments (R2, R3) -/

/-- The other bank: the shadow when the bank is live (00_scope.md 1.4). -/
def Bank.other : Bank → Bank
  | .a => .b
  | .b => .a

/-- The size of a window in words, 2^k (R2). -/
def Descriptor.size (d : Descriptor) : Nat := 2 ^ d.sizeExp

/-- The segment length, size/32 words (R3). -/
def Descriptor.segLen (d : Descriptor) : Nat := d.size / 32

/-- The base of a physical bank (R2). -/
def Descriptor.bankBase (d : Descriptor) : Bank → Addr
  | .a => d.bankABase
  | .b => d.bankBBase

/-- The segment a word at an offset lies in (R3). -/
def Descriptor.segmentOf (d : Descriptor) (offset : Nat) : Segment := Fin.ofNat 32 (offset / d.segLen)

/-- The address of a word: a base plus an offset (R84). -/
def wordAt (base : Addr) (offset : Nat) : Addr := base + BitVec.ofNat 22 offset

/-- The address of the closing word in a bank (R27). -/
def Descriptor.closingWord (d : Descriptor) (bank : Bank) : Addr := wordAt (d.bankBase bank) d.closingOffset

/-! ### Claimed regions (R4, R7) -/

/-- A run of words. -/
structure Region where
  base : Nat
  size : Nat
deriving DecidableEq, Repr

/-- The word of an address lies in a region. -/
def Region.holds (r : Region) (a : Addr) : Bool := decide (r.base ≤ a.toNat) && decide (a.toNat < r.base + r.size)

/-- Two regions share no word (R4). -/
def Region.disjoint (r t : Region) : Bool := decide (r.base + r.size ≤ t.base) || decide (t.base + t.size ≤ r.base)

/-- The logical range (R4). -/
def Descriptor.logicalRange (d : Descriptor) : Region := { base := d.logicalBase.toNat, size := d.size }

/-- A bank's range (R4). -/
def Descriptor.bankRange (d : Descriptor) (bank : Bank) : Region := { base := (d.bankBase bank).toNat, size := d.size }

/-- The safe range, if a safe base is present (R4). -/
def Descriptor.safeRange (d : Descriptor) : List Region :=
  d.safeBase.toList.map fun base => { base := base.toNat, size := d.size }

/-- The stamp pair, if a stamp address is present (R4). -/
def Descriptor.stampRange (d : Descriptor) : List Region :=
  d.stampAddr.toList.map fun base => { base := base.toNat, size := 2 }

/-- The bank A range, unless it is the logical range itself (R4, R5). -/
def Descriptor.bankAApart (d : Descriptor) : List Region :=
  if d.bankABase = d.logicalBase then [] else [d.bankRange .a]

/-- The concealed region: bank A when it is not the logical range, bank B, and the safe range (R5). -/
def Descriptor.concealed (d : Descriptor) : List Region := d.bankAApart ++ d.bankRange .b :: d.safeRange

/-- The claimed regions of a window (R4); bank A is left out when it coincides with the logical range. -/
def Descriptor.claimed (d : Descriptor) : List Region := d.logicalRange :: d.concealed ++ d.stampRange

/-- No two regions of a list share a word. -/
def pairwiseDisjoint : List Region → Bool
  | []      => true
  | r :: rs => rs.all r.disjoint && pairwiseDisjoint rs

/-- No region of one list shares a word with one of the other. -/
def crossDisjoint (rs ts : List Region) : Bool := rs.all fun r => ts.all r.disjoint

/-! ### Operand bytes (section 11.5) -/

/-- A slot operand; none above 15 (R173). -/
def slotOf (b : Byte) : Option Slot := if h : b.toNat < 16 then some ⟨b.toNat, h⟩ else none

/-- A three-byte address; none above 0x3FFFFF (R6). -/
def addrOf (v : BitVec 24) : Option Addr := if v.toNat ≤ 0x3FFFFF then some (v.setWidth 22) else none

/-- A boundary source: 0 PT, 1 BX (section 11.5.1). -/
def sourceOf (b : Byte) : Option Source :=
  match b.toNat with
  | 0 => some .pt
  | 1 => some .bx
  | _ => none

/-- A timer mode: 0 SAW, 1 TRI (section 11.5.1). -/
def modeOf (b : Byte) : Option TimerMode :=
  match b.toNat with
  | 0 => some .saw
  | 1 => some .tri
  | _ => none

/-- A boundary selection: 0 PEAK, 1 TROUGH, 2 BOTH (section 11.5.1). -/
def selectionOf (b : Byte) : Option Selection :=
  match b.toNat with
  | 0 => some .peak
  | 1 => some .trough
  | 2 => some .both
  | _ => none

/-- A yes-or-no operand: 0 no, 1 yes (section 11.5.1, TRIP SET). -/
def yesNoOf (b : Byte) : Option Bool :=
  match b.toNat with
  | 0 => some false
  | 1 => some true
  | _ => none

/-- A prescale exponent, 0 to 7 (R128, R133, R139, R145). -/
def exponentOf (b : Byte) : Option Nat := if b.toNat ≤ 7 then some b.toNat else none

/-- A filter depth: 1, 4, 8 or 16 (R133, R145). -/
def depthOf (b : Byte) : Option Nat :=
  if b.toNat = 1 ∨ b.toNat = 4 ∨ b.toNat = 8 ∨ b.toNat = 16 then some b.toNat else none

/-- A timeout setting: 0 for OFF, or k from 4 to 15 (R107). -/
def timeoutOf (b : Byte) : Option (Option Nat) :=
  if b.toNat = 0 then some none
  else if 4 ≤ b.toNat ∧ b.toNat ≤ 15 then some (some b.toNat)
  else none

/-- The address is a multiple of the size (R6). -/
def alignedTo (size : Nat) (a : Addr) : Bool := decide (a.toNat % size = 0)

/-- The descriptor DEFINE's operands ask for, or none when a BAD_PARAM check of R6 fails: the size exponent, the
reserved flags, the cadence, the closing offset, the bases' alignment and range, the stamp address's range and
evenness, and equal banks. A safe base or a stamp address marked absent is not checked. -/
def descriptorOf (o : DefineOperands) : Option Descriptor :=
  let k := o.sizeExp.toNat
  let size := 2 ^ k
  let safePresent := o.flags.getLsbD 4
  let stampPresent := o.flags.getLsbD 5
  match addrOf o.logical, addrOf o.bankA, addrOf o.bankB, addrOf o.safe, addrOf o.stamp with
  | some logical, some bankA, some bankB, safe?, stamp? =>
    if 5 ≤ k ∧ k ≤ 14 ∧ o.flags.getLsbD 6 = false ∧ o.flags.getLsbD 7 = false ∧ o.cadence.toNat ≠ 0
        ∧ o.closing.toNat < size
        ∧ alignedTo size logical ∧ alignedTo size bankA ∧ alignedTo size bankB
        ∧ (safePresent = true → (safe?.any (alignedTo size)) = true)
        ∧ (stampPresent = true → (stamp?.any (alignedTo 2)) = true)
        ∧ bankB ≠ bankA then
      some { sizeExp := k, logicalBase := logical, bankABase := bankA, bankBBase := bankB,
             safeBase := if safePresent then safe? else none, fillWord := o.fill,
             source := if o.flags.getLsbD 0 then .bx else .pt, cadence := o.cadence.toNat,
             closingOffset := o.closing.toNat, singleShot := o.flags.getLsbD 1,
             hostView := if o.flags.getLsbD 2 then .live else .shadow, tripProtected := o.flags.getLsbD 3,
             stampAddr := if stampPresent then stamp? else none }
    else none
  | _, _, _, _, _ => none

/-! ### Codes in responses (sections 11.5.3 to 11.5.5) -/

/-- The code of a lifecycle. -/
def Lifecycle.code : Lifecycle → Byte
  | .unused  => 0#8
  | .defined => 1#8
  | .active  => 2#8
  | .held    => 3#8
  | .faulted => 4#8

/-- The code of a phase. -/
def Phase.code : Phase → Byte
  | .clean    => 0#8
  | .staging  => 1#8
  | .complete => 2#8

/-- The code of a trip state. -/
def TripState.code : TripState → Byte
  | .normal    => 0#8
  | .tripped   => 1#8
  | .restoring => 2#8

/-- The code of a trip reason, 0 for none. -/
def tripReasonCode : Option TripReason → Byte
  | none          => 0#8
  | some .line    => 1#8
  | some .watch   => 2#8
  | some .command => 3#8

/-- The code of a fault origin. -/
def Client.code : Client → Byte
  | .hp => 0#8
  | .cp => 1#8
  | .re => 2#8
  | .sw => 3#8

/-- The code of a fault kind. -/
def FaultKind.code : FaultKind → Byte
  | .fault   => 0#8
  | .timeout => 1#8

/-- The code of a refusal reason. -/
def Reason.code : Reason → Byte
  | .concealed     => 1#8
  | .stampWrite    => 2#8
  | .consumerWrite => 3#8
  | .held          => 4#8
  | .faulted       => 5#8

/-- The code of a port in READ REFUSAL. -/
def portCode : PortId → Byte
  | .host     => 0#8
  | .consumer => 1#8

/-- The code of a slot, 0xFF for none. -/
def slotCode : Option Slot → Byte
  | none   => 0xFF#8
  | some k => byteOf k.val

/-- The bit of a bank: 0 A, 1 B. -/
def Bank.bit : Bank → Nat
  | .a => 0
  | .b => 1

/-- Word 0 of a stamp record (section 11.5.5). -/
def StampRecord.word0 (r : StampRecord) : Word :=
  BitVec.ofNat 32 (r.gen.toNat + r.live.bit * 2 ^ 16 + r.lateCount * 2 ^ 17 + r.held.toNat * 2 ^ 25
    + r.enable.toNat * 2 ^ 26)

/-- Word 1 of a stamp record: the sequence number (section 11.5.5). -/
def StampRecord.word1 (r : StampRecord) : Word := r.seq

end Sys2Proof.Machine
end

