-- ==== Sys2Proof/Machine/Ops.lean ====
section
/-! DEFINITION. The shared operations of the blocks: each chapter's rules that more than one command uses. -/
namespace Sys2Proof.Machine

/-! ### Window records (chapter 1) -/

/-- The window record of a slot (R1). -/
def State.window (s : State) (k : Slot) : Window := s.windows[k]

/-- Replaces the window record of a slot. -/
def State.setWindow (s : State) (k : Slot) (w : Window) : State := { s with windows := s.windows.set k w }

/-- In service: ACTIVE, HELD or FAULTED, the states in which boundaries are delivered, the view applies and the
concealed region is closed (R9). -/
def Lifecycle.inService : Lifecycle → Bool
  | .active | .held | .faulted => true
  | .unused | .defined => false

/-- A protected window in service: the windows the view table applies to (R143). -/
def Window.guarded (w : Window) : Bool := w.life.inService && w.desc.any (·.tripProtected)

/-- The window counts boundaries of a source and is in service: a delivered boundary reaches it (R36). -/
def Window.receives (w : Window) (src : Source) : Bool := w.life.inService && w.desc.any (·.source = src)

/-- The update record made CLEAN with an empty dirty set (R22). -/
def Window.cleaned (w : Window) : Window := { w with phase := .clean, dirty := 0 }

/-- Cadence count and late count 0, update record CLEAN: what DEFINE, ENABLE, DISABLE and the soft reset do alike
(R8, R10, R13, R21). -/
def Window.restarted (w : Window) : Window := { w.cleaned with cadenceCount := 0, lateCount := 0 }

/-- A staged write: its segment joins the dirty set and the phase becomes STAGING (R23). -/
def Window.stage (w : Window) (seg : Segment) : Window :=
  { w with dirty := w.dirty ||| BitVec.twoPow 32 seg.val, phase := .staging }

/-- Entry into FAULTED at the record: CLEAN, late count 0, the rest kept (R16). -/
def Window.fail (w : Window) : Window := { w.cleaned with life := .faulted, lateCount := 0 }

/-- The class of an address (R5). -/
inductive AddrClass where
  | logical (slot : Slot) (offset : Nat)
  | concealed (slot : Slot)
  | stampPair (slot : Slot)
  | elsewhere
deriving DecidableEq, Repr

/-- The class an address has by one slot's window, if the window claims it (R5). -/
def Window.classOf (w : Window) (k : Slot) (a : Addr) : Option AddrClass :=
  match w.life, w.desc with
  | .unused, _ => none
  | _, none    => none
  | _, some d  =>
    if d.logicalRange.holds a then some (.logical k (a.toNat - d.logicalBase.toNat))
    else if d.concealed.any (·.holds a) then some (.concealed k)
    else if d.stampRange.any (·.holds a) then some (.stampPair k)
    else none

/-- The class of an address against the window table (R5). By R4 at most one window claims it. -/
def State.classify (s : State) (a : Addr) : AddrClass :=
  ((List.finRange 16).findSome? fun k => (s.window k).classOf k a).getD .elsewhere

/-! ### Resync engine (chapter 4) -/

/-- The segments of a set, in ascending order (R57). -/
def segmentsOf (set : SegmentSet) : List Segment := (List.finRange 32).filter fun i => set.getLsbD i.val

/-- Every segment of a window: the set priming hands over (R73). -/
def allSegments : SegmentSet := BitVec.allOnes 32

/-- Appends a group at the tail, in ascending segment order (R57). -/
def ResyncEngine.append (re : ResyncEngine) (k : Slot) (set : SegmentSet) : ResyncEngine :=
  { re with queue := re.queue ++ (segmentsOf set).map fun seg => { slot := k, seg := seg } }

/-- A segment of a window has an entry, in flight or waiting (R58). -/
def ResyncEngine.has (re : ResyncEngine) (e : Entry) : Bool := decide (e ∈ re.queue)

/-- A window has an entry, in flight or waiting (R58). -/
def ResyncEngine.holds (re : ResyncEngine) (k : Slot) : Bool := re.queue.any (·.slot = k)

/-- How many entries a window has (R58). -/
def ResyncEngine.countOf (re : ResyncEngine) (k : Slot) : Nat := (re.queue.filter (·.slot = k)).length

/-- The in-flight entry: the head of the queue while its copy is under way (R59). -/
def ResyncEngine.inFlight (re : ResyncEngine) : Option Entry :=
  match re.copy with
  | some _ => re.queue.head?
  | none   => none

/-- The queue with an entry promoted: it stays if it is in flight, and otherwise moves directly behind the in-flight
entry, or to the head when none is in flight (R65). -/
def promoted (queue : List Entry) (inFlight : Bool) (e : Entry) : List Entry :=
  match inFlight, queue with
  | true, h :: rest => if h = e then queue else h :: e :: rest.erase e
  | _, _            => e :: queue.erase e

/-- Parking at the resync engine: the awaited entry is set and promoted (R64, R65). -/
def ResyncEngine.await (re : ResyncEngine) (e : Entry) : ResyncEngine :=
  { re with awaited := some e, queue := promoted re.queue re.copy.isSome e }

/-- A purge of a window (R68). The in-flight entry's access, if requested, is withdrawn with the copy; if granted, it
becomes the orphaned access. -/
def ResyncEngine.purge (re : ResyncEngine) (k : Slot) : ResyncEngine :=
  let mine := re.inFlight.any (·.slot = k)
  { queue := re.queue.filter (·.slot ≠ k)
    copy := if mine then none else re.copy
    awaited := if re.awaited.any (·.slot = k) then none else re.awaited
    orphaned := re.orphaned || (mine && re.copy.any (·.stage = Stage.granted)) }

/-- The head's copy is finished: the entry leaves the queue, and is no longer awaited (R62). -/
def ResyncEngine.finish (re : ResyncEngine) : ResyncEngine :=
  { re with queue := re.queue.tail, copy := none,
            awaited := if re.awaited = re.queue.head? then none else re.awaited }

/-! ### Stamp writer (chapter 7) -/

/-- The head record's write of word 1 is requested (R114); on an empty queue step and stage have no meaning. -/
def StampWriter.startHead (sw : StampWriter) : StampWriter := { sw with step := .word1, stage := .requested }

/-- A record joins at the tail; on an empty queue it becomes the head, and its first write is requested (R113, R114). -/
def StampWriter.append (sw : StampWriter) (r : StampRecord) : StampWriter :=
  if sw.queue = [] then { sw with queue := [r] }.startHead else { sw with queue := sw.queue ++ [r] }

/-- The head record leaves, written or dropped, and the next is started (R116, R117). -/
def StampWriter.dropHead (sw : StampWriter) : StampWriter := { sw with queue := sw.queue.tail }.startHead

/-- DISABLE removes a window's record (R118). When it was the head, its write is withdrawn, or, if granted, becomes
the discarded access, and the next head is started. -/
def StampWriter.remove (sw : StampWriter) (k : Slot) : StampWriter :=
  let queue := sw.queue.filter (·.slot ≠ k)
  if sw.queue.head?.any (·.slot = k) then
    { sw with queue := queue, discarded := sw.discarded || decide (sw.stage = Stage.granted) }.startHead
  else { sw with queue := queue }

/-! ### Trip unit (chapter 9) -/

/-- The view entry of a slot (R143). -/
def TripUnit.entry (tu : TripUnit) (k : Slot) : ViewEntry := tu.views[k]

/-- Sets the view entry of a slot. -/
def TripUnit.setEntry (tu : TripUnit) (k : Slot) (v : ViewEntry) : TripUnit := { tu with views := tu.views.set k v }

/-- Some entry has restore pending. -/
def TripUnit.anyPending (tu : TripUnit) : Bool := (List.finRange 16).any fun k => (tu.entry k).restorePending

/-- Some entry is SAFE. -/
def TripUnit.anySafe (tu : TripUnit) : Bool := (List.finRange 16).any fun k => (tu.entry k).view = .safe

/-- RESTORING ends when no entry has restore pending (R149, R151). -/
def TripUnit.endRestoring (tu : TripUnit) : TripUnit :=
  if tu.state = .restoring && !tu.anyPending then { tu with state := .normal, reason := none } else tu

/-- An entry becomes LIVE with no restore pending: a restore (R149), or DISABLE (R151). -/
def TripUnit.toLive (tu : TripUnit) (k : Slot) : TripUnit := (tu.setEntry k .initial).endRestoring

/-- The entry ENABLE gives a window (R150). -/
def TripUnit.enableEntry (tu : TripUnit) (isProtected : Bool) : ViewEntry :=
  match isProtected, tu.state with
  | false, _         => { view := .live, restorePending := false }
  | true, .normal    => { view := .live, restorePending := false }
  | true, .tripped   => { view := .safe, restorePending := false }
  | true, .restoring => { view := .safe, restorePending := true }

/-- The trip unit after a trip is taken: TRIPPED with the demand's reason, every guarded window SAFE (R147). -/
def TripUnit.trip (tu : TripUnit) (reason : TripReason) (guarded : Slot → Bool) : TripUnit :=
  { tu with
    state := .tripped
    reason := some reason
    views := Vector.ofFn fun k =>
      if guarded k then { view := .safe, restorePending := false } else tu.entry k }

/-- A trip demand (R147): taken in NORMAL or RESTORING, without effect in TRIPPED. -/
def State.tripDemand (s : State) (reason : TripReason) : State :=
  if s.tu.state = .tripped then s
  else { s with tu := s.tu.trip reason fun k => (s.window k).guarded }.raise .trip

/-! ### Line filters (R132, R144) -/

/-- One sample of a filter; the sample prescale count returns to 0 (R132, R144). -/
def Filter.sample (f : Filter) (l : Level) : Filter :=
  if l = f.level then { f with run := 0, prescale := 0 }
  else if f.run + 1 < f.depth then { f with run := f.run + 1, prescale := 0 }
  else { f with level := l, run := 0, prescale := 0 }

/-- The filtered level rises from LOW to HIGH at the sample (R132, R144). -/
def Filter.rises (f : Filter) (l : Level) : Bool := decide (f.level = .low) && decide ((f.sample l).level = .high)

/-- New settings: the level is kept, the counts restart (R133, R145). -/
def Filter.set (f : Filter) (exponent depth : Nat) : Filter :=
  { f with exponent := exponent, depth := depth, run := 0, prescale := 0 }

/-- The filter after a soft reset: level LOW, counts 0, settings kept (R132, R143). -/
def Filter.softReset (f : Filter) : Filter := { f with level := .low, run := 0, prescale := 0 }

/-! ### Boundary unit (chapter 8) -/

/-- The sequence counter of a source (R122). -/
def BoundaryUnit.seq (bu : BoundaryUnit) : Source → BitVec 32
  | .pt => bu.ptSeq
  | .bx => bu.bxSeq

/-- The sequence counter of a source rises by one, wrapping (R122). -/
def BoundaryUnit.count (bu : BoundaryUnit) : Source → BoundaryUnit
  | .pt => { bu with ptSeq := bu.ptSeq + 1 }
  | .bx => { bu with bxSeq := bu.bxSeq + 1 }

/-- A boundary reaches a window's inbox when the window receives its source (R36). -/
def Window.receive (w : Window) (b : Boundary) : Window :=
  if w.receives b.source then { w with inbox := w.inbox ++ [b] } else w

/-- One boundary of a source is delivered: the counter rises, and every receiving window is handed the boundary with
the counter's new value (R122, R36). -/
def State.deliver (s : State) (src : Source) : State :=
  let bu := s.bu.count src
  { s with bu := bu, windows := s.windows.map fun w => w.receive { source := src, seq := bu.seq src } }

/-- The watch is counting: enabled, with its first flag clear (R136). -/
def Watch.counting (w : Watch) : Bool := w.enable && !w.first

/-- The watch accepts an edge: disabled, first flag set, or MIN steps or more since the last accepted edge (R137). -/
def Watch.accepts (w : Watch) : Bool := !w.enable || w.first || decide (w.min ≤ w.count)

/-- The last eight intervals of a history (R135). -/
def lastIntervals (h : List Nat) : List Nat := h.drop (h.length - Config.historyLength)

/-- The watch after a BX edge (R137). -/
def Watch.edge (w : Watch) : Watch :=
  if !w.enable then w
  else if w.first then { w with count := 0, prescale := 0, first := false }
  else if w.count < w.min then w
  else { w with count := 0, prescale := 0, history := lastIntervals (w.history ++ [w.count]) }

/-- The last interval: the newest of the history, 0 while it is empty (R135). -/
def Watch.lastInterval (w : Watch) : Nat := w.history.getLast?.getD 0

/-- The mean of the history, rounded down, 0 while it is empty (R140). -/
def Watch.mean (w : Watch) : Nat := w.history.sum / w.history.length

/-- The watch started again: count and prescale 0, first flag set, history empty (R139, R142). -/
def Watch.restart (w : Watch) : Watch := { w with count := 0, prescale := 0, first := true, history := [] }

/-- A BX edge is judged by the watch in the event that makes it (R134, R137): delivered if accepted, and otherwise
EARLY_BOUNDARY. -/
def State.bxEdge (s : State) : State :=
  let s' := { s with bu := { s.bu with watch := s.bu.watch.edge } }
  if s.bu.watch.accepts then s'.deliver .bx else s'.raise .earlyBoundary

/-- A pending period is moved into P (R129). -/
def PeriodTimer.takePending (pt : PeriodTimer) : PeriodTimer :=
  { pt with period := pt.pendingPeriod.getD pt.period, pendingPeriod := none }

/-- The timer stopped: count 0, direction UP, prescale 0, the pending period moved into P (R130, R142). -/
def PeriodTimer.stop (pt : PeriodTimer) : PeriodTimer :=
  { pt.takePending with running := false, count := 0, direction := .up, prescale := 0 }

/-- A count step in SAW mode, and whether it delivers a boundary (R126). -/
def PeriodTimer.sawStep (pt : PeriodTimer) : PeriodTimer × Bool :=
  if pt.count < pt.period then ({ pt with count := pt.count + 1 }, false)
  else ({ pt.takePending with count := 0 }, true)

/-- A count step in TRI mode, and whether it delivers a boundary (R127). -/
def PeriodTimer.triStep (pt : PeriodTimer) : PeriodTimer × Bool :=
  match pt.direction with
  | .up =>
    if pt.count + 1 < pt.period then ({ pt with count := pt.count + 1 }, false)
    else ({ pt with count := pt.count + 1, direction := .down }, decide (pt.selection ≠ .trough))
  | .down =>
    if 1 < pt.count then ({ pt with count := pt.count - 1 }, false)
    else ({ pt.takePending with count := 0, direction := .up }, decide (pt.selection ≠ .peak))

/-- A count step of the running timer in its mode (R125); the prescale count has returned to 0. -/
def PeriodTimer.step (pt : PeriodTimer) : PeriodTimer × Bool :=
  let pt := { pt with prescale := 0 }
  match pt.mode with
  | .saw => pt.sawStep
  | .tri => pt.triStep

/-- The boundary unit after a soft reset (R142). -/
def BoundaryUnit.softReset (bu : BoundaryUnit) : BoundaryUnit :=
  { bu with pt := bu.pt.stop, line := bu.line.softReset, watch := bu.watch.restart }

/-! ### Ports (chapter 5) -/

/-- A write with no lane enabled (R78). -/
def opNoLane : Op → Bool
  | .read         => false
  | .write mask _ => decide (mask = 0)

/-- The op is a write. -/
def opIsWrite : Op → Bool
  | .read      => false
  | .write _ _ => true

/-- A response of code OK (R79). -/
def PortResponse.ok (data : Word) : PortResponse := { code := .ok, data := data }

/-- A REFUSED response, with the reason code in bits 7..0 (R79, R173). -/
def PortResponse.refuse (r : Reason) : PortResponse := { code := .refused, data := r.code.setWidth 32 }

/-- A FAULT response (R79). -/
def PortResponse.fault : PortResponse := { code := .fault, data := 0 }

/-- An ABORTED response (R79). -/
def PortResponse.aborted : PortResponse := { code := .aborted, data := 0 }

/-- The state of a port. -/
def State.port (s : State) : PortId → Port
  | .host     => s.hp
  | .consumer => s.cp

/-- Replaces the state of a port. -/
def State.setPort (s : State) (p : PortId) (q : Port) : State :=
  match p with
  | .host     => { s with hp := q }
  | .consumer => { s with cp := q }

/-- Records responses given at a port, in order. -/
def Outputs.respond (o : Outputs) (p : PortId) (rs : List PortResponse) : Outputs :=
  match p with
  | .host     => { o with host := o.host ++ rs }
  | .consumer => { o with consumer := o.consumer ++ rs }

/-- Held-off offers join the tail of the queue, oldest first, as far as it has room (R78). -/
def Port.acceptHeldOff (q : Port) : Port :=
  let room := Config.portCapacity - q.queue.length
  { q with queue := q.queue ++ q.offers.take room, offers := q.offers.drop room }

/-- A master offers a request: it stands behind those held off, and joins the queue at once when there is room (R78). -/
def Port.offered (q : Port) (r : Request) : Port := { q with offers := q.offers ++ [r] }.acceptHeldOff

/-- The request in service leaves: the port is IDLE, and at the removal a held-off offer is accepted (R78, R79, R82). -/
def Port.dropHead (q : Port) : Port := { q with queue := q.queue.tail, service := .idle }.acceptHeldOff

/-- Every request leaves at a soft reset (R97); the offers held off are then accepted into the empty queue (R78, R98). -/
def Port.emptied (q : Port) : Port := { q with queue := [], service := .idle }.acceptHeldOff

/-- The head request is answered, and leaves the queue in the same event (R79). -/
def State.answerHead (s : State) (p : PortId) (r : PortResponse) : State :=
  { s.setPort p (s.port p).dropHead with out := s.out.respond p [r] }

/-- A refusal: the head is answered REFUSED, and the attention unit gets the report (R91). -/
def State.refuseHead (s : State) (p : PortId) (a : Addr) (r : Reason) : State :=
  let s' := s.answerHead p (.refuse r)
  { s' with au := s'.au.takeRefusal { port := p, addr := a, reason := r } }

/-- The port asks the memory port for the access of its head request (R81). -/
def State.request (s : State) (p : PortId) (t : Translated) : State :=
  s.setPort p { s.port p with service := .requesting t }

/-! ### Memory port (chapter 6) -/

/-- The port's request at the memory port: present in REQUESTING (R100). -/
def portRequest (c : Client) (q : Port) : Option Access :=
  match q.service, q.queue with
  | .requesting t, r :: _ => some { client := c, op := r.op, addr := t.addr, slot := t.slot }
  | _, _                  => none

/-- The stamp writer's request: the write of the head record's word that its step names (R114, R115). -/
def StampWriter.access (sw : StampWriter) : Option Access :=
  match sw.queue, sw.stage with
  | r :: _, .requested =>
    match sw.step with
    | .word1 => some { client := .sw, op := .write 0xF#4 r.word1, addr := r.stampAddr + 1, slot := some r.slot }
    | .word0 => some { client := .sw, op := .write 0xF#4 r.word0, addr := r.stampAddr, slot := some r.slot }
  | _, _ => none

/-- The resync engine's request: the read of a word of the live bank, or the write of the copy data to the same word
of the shadow bank (R61). -/
def State.copyRequest (s : State) : Option Access :=
  match s.re.copy, s.re.queue with
  | some c, e :: _ =>
    match c.stage, (s.window e.slot).desc with
    | .requested, some d =>
      let live := (s.window e.slot).live
      let offset := e.seg.val * d.segLen + c.index
      match c.step with
      | .read       => some { client := .re, op := .read, addr := wordAt (d.bankBase live) offset, slot := some e.slot }
      | .write data => some { client := .re, op := .write 0xF#4 data,
                              addr := wordAt (d.bankBase live.other) offset, slot := some e.slot }
    | _, _ => none
  | _, _ => none

/-- The arbiter's choice among the requests present, and the passover count after the grant (R101, R102). -/
def arbitrate (cp sw hp re : Option Access) (passover : Nat) : Option (Access × Nat) :=
  match cp, sw, hp, re with
  | some a, _, _, _          => some (a, passover)
  | none, some a, _, _       => some (a, passover)
  | none, none, some h, none => some (h, 0)
  | none, none, some h, some r =>
    if passover < Config.passoverLimit then some (h, passover + 1) else some (r, 0)
  | none, none, none, some r => some (r, 0)
  | none, none, none, none   => none

/-- A port's access is granted: REQUESTING becomes AWAITING (R82). -/
def Port.granted (q : Port) : Port :=
  match q.service with
  | .requesting t => { q with service := .awaiting t }
  | _             => q

/-- The client whose request is granted records the grant (R103). -/
def State.markGranted (s : State) : Client → State
  | .hp => { s with hp := s.hp.granted }
  | .cp => { s with cp := s.cp.granted }
  | .re => { s with re := { s.re with copy := s.re.copy.map fun c => { c with stage := .granted } } }
  | .sw => { s with sw := { s.sw with stage := .granted } }

/-- The access issued to the SRAM at a grant (R103). -/
def State.issue (s : State) (a : Access) (passover : Nat) : State :=
  let mp := s.mp
  { s.markGranted a.client with
    mp := { mp with awaiting := some { access := a, tag := mp.tag, limit := mp.timeout.map (2 ^ ·), clocks := 0 }
                    tag := mp.tag + 1
                    passover := passover }
    out := { s.out with accesses := s.out.accesses ++ [{ access := a, tag := mp.tag }] } }

/-- What the memory port hands a client: an OK with the word of a read, or a failure of either kind (R104, R106). -/
inductive ClientAnswer where
  | ok (word : Word)
  | failure (kind : FaultKind)
deriving DecidableEq, Repr

/-- Completion (R27): the OK answer to a staged closing write makes a STAGING update COMPLETE. -/
def State.complete (s : State) (t : Translated) : State :=
  match t.staged, t.slot with
  | true, some k =>
    let w := s.window k
    match w.desc with
    | some d =>
      if t.addr = d.closingWord w.live.other ∧ (w.life = .active ∨ w.life = .held) ∧ w.phase = .staging then
        s.setWindow k { w with phase := .complete }
      else s
    | none => s
  | _, _ => s

/-- The response of an OK answer: the word for a read, zero for a write (R79, R82). -/
def okResponse (op : Op) (word : Word) : PortResponse := .ok (if opIsWrite op then 0 else word)

/-- The answer at the consumer port (R82, R95). -/
def State.answerConsumer (s : State) (ans : ClientAnswer) : State :=
  match s.cp.service, s.cp.queue with
  | .awaiting _, r :: _ =>
    match ans with
    | .ok word   => s.answerHead .consumer (okResponse r.op word)
    | .failure _ => s.answerHead .consumer .fault
  | _, _ => s

/-- The answer at the host port; an OK to a write may complete an update in the same event (R27, R82, R95). -/
def State.answerHost (s : State) (ans : ClientAnswer) : State :=
  match s.hp.service, s.hp.queue with
  | .awaiting t, r :: _ =>
    match ans with
    | .ok word   => (if opIsWrite r.op then s.complete t else s).answerHead .host (okResponse r.op word)
    | .failure _ => s.answerHead .host .fault
  | _, _ => s

/-- The answer at the stamp writer: discarded for a removed record (R119); word 1 OK asks for word 0 (R115); word 0 OK
removes the written record (R116); a failure drops the record (R117). -/
def StampWriter.answer (sw : StampWriter) (ans : ClientAnswer) : StampWriter :=
  if sw.discarded then { sw with discarded := false }
  else match sw.queue, ans, sw.step with
    | [], _, _                => sw
    | _ :: _, .failure _, _   => sw.dropHead
    | _ :: _, .ok _, .word1   => { sw with step := .word0, stage := .requested }
    | _ :: _, .ok _, .word0   => sw.dropHead

/-- The window of a failed copy enters FAULTED (R16, R71): the record fails, every entry of the window is purged, the
answered access being no orphan, and WINDOW_FAULT is raised. -/
def State.failCopy (s : State) (k : Slot) : State :=
  { s.setWindow k (s.window k).fail with re := ({ s.re with copy := none }.purge k) }.raise .windowFault

/-- The segment length of a slot's window. -/
def State.segLenOf (s : State) (k : Slot) : Nat := ((s.window k).desc.map (·.segLen)).getD 1

/-- The copy after an OK answer: the read's word is held for the write; after the write the next word is read, or the
copy is finished (R61, R62). -/
def ResyncEngine.advance (re : ResyncEngine) (c : Copy) (segLen : Nat) (word : Word) : ResyncEngine :=
  match c.step with
  | .read    => { re with copy := some { c with step := .write word, stage := .requested } }
  | .write _ =>
    if c.index + 1 < segLen then
      { re with copy := some { index := c.index + 1, step := .read, stage := .requested } }
    else re.finish

/-- The answer at the resync engine: discarded for an orphaned access (R69), the next step of the copy on OK (R61,
R62), the failure of the copy otherwise (R71). -/
def State.answerResync (s : State) (ans : ClientAnswer) : State :=
  if s.re.orphaned then { s with re := { s.re with orphaned := false } }
  else match s.re.copy, s.re.queue, ans with
    | some c, e :: _, .ok word   => { s with re := s.re.advance c (s.segLenOf e.slot) word }
    | some _, e :: _, .failure _ => s.failCopy e.slot
    | _, _, _                    => s

/-- The answer at the client of an access (R104). -/
def State.answerClient (s : State) (c : Client) (ans : ClientAnswer) : State :=
  match c with
  | .hp => s.answerHost ans
  | .cp => s.answerConsumer ans
  | .re => s.answerResync ans
  | .sw => { s with sw := s.sw.answer ans }

/-- The fault record of a failed access (R108). -/
def faultRecord (a : Access) (kind : FaultKind) : FaultRecord :=
  { origin := a.client, kind := kind, isWrite := opIsWrite a.op, addr := a.addr, slot := a.slot }

/-- The awaiting access ends with an answer or a timeout: the memory port is free, a failure makes its fault record,
and the client takes what it is handed, in one event (R104, R106, R108). -/
def State.endAccess (s : State) (a : Access) (ans : ClientAnswer) : State :=
  let s := { s with mp := { s.mp with awaiting := none } }
  let s := match ans with
    | .ok _         => s
    | .failure kind => { s with au := s.au.takeFault (faultRecord a kind) }
  s.answerClient a.client ans

/-! ### Management link (chapter 11) -/

/-- The bytes of a response, its check byte last (R165, R168). -/
def LinkResponse.bytes (r : LinkResponse) : List Byte :=
  let body := r.status :: r.echo :: r.data
  body ++ [checkByte body]

/-- The bits SDO carries during a frame of n bits: the held response, then 0xFF bytes (R168). -/
def LinkResponse.shifted (r : LinkResponse) (n : Nat) : List Bool := (bytesBits r.bytes ++ List.replicate n true).take n

/-- What an owner answers to a command: a status, and response data with DONE (R167). -/
structure Reply where
  status : Status
  data   : List Byte
deriving DecidableEq, Repr

/-- DONE with no data. -/
def Reply.done : Reply := { status := .done, data := [] }

/-- DONE with response data. -/
def Reply.report (data : List Byte) : Reply := { status := .done, data := data }

/-- A failure status, with no data (R167). -/
def Reply.fail (st : Status) : Reply := { status := st, data := [] }

/-- CSn rises after a frame of these bits: the frame ends, the held response has been shifted out under it, and the
buffer holds the new response (R168). -/
def ManagementLink.endFrame (ml : ManagementLink) (bits : List Bool) (r : LinkResponse) : ManagementLink :=
  { frame := .none, rx := bits, response := r, sdo := ml.response.shifted bits.length }

/-- CSn rises after a frame that fell before or during a full reset: the response buffer is kept (R171). -/
def ManagementLink.discardFrame (ml : ManagementLink) : ManagementLink :=
  { ml with frame := .none, rx := [], sdo := [] }

/-- The response to a frame: the owner's status, the echo of the frame's first byte, and the data (R167, R168). -/
def responseTo (body : List Byte) (r : Reply) : LinkResponse :=
  { status := r.status.code, echo := body.headD 0xFF#8, data := r.data }

/-- The bits of the frame a command is sent in (R165). -/
def frameBits (c : Instr) : List Bool := bytesBits ((encodeFrame c).getD [])

/-- A command of the management link is taken at its CSn rise (R167): its owner carries it out, and the response is
placed in the buffer. At the rise of a frame that fell before or during a full reset nothing is taken (R171). -/
def State.takeCommand (s : State) (c : Instr) (act : State → State × Reply) : State :=
  if s.ml.frame = .discarding then { s with ml := s.ml.discardFrame }
  else
    let r := act s
    { r.1 with ml := s.ml.endFrame (frameBits c) (responseTo ((commandBody c).getD []) r.2) }

/-- A command that names a slot: BAD_SLOT above 15 (R1, R173). -/
def onSlot (slot : Byte) (act : Slot → State → State × Reply) (s : State) : State × Reply :=
  match slotOf slot with
  | none   => (s, .fail .badSlot)
  | some k => act k s

/-- A command whose operands are checked: BAD_PARAM when they are out of range (R173). -/
def onParam {α : Type} (operand : Option α) (act : α → State → State × Reply) (s : State) : State × Reply :=
  match operand with
  | none   => (s, .fail .badParam)
  | some x => act x s

end Sys2Proof.Machine
end

