-- ==== Sys2Proof/Machine/Memory.lean ====
section
/-! DEFINITION. The memory port (chapter 6): MEMORY SET, a grant, an answer and a timeout; and the resync engine's
taking of an entry in flight (R60). -/
namespace Sys2Proof.Machine

/-- MEMORY SET with a valid operand: it applies to accesses granted after it (R107). -/
def setTimeout (x : Option Nat) (s : State) : State × Reply := ({ s with mp := { s.mp with timeout := x } }, .done)

/-- MEMORY SET (R107). -/
def execMemorySet (setting : Byte) (s : State) : Host.Outcome State Fault Refusal :=
  .next (s.takeCommand (.memorySet setting) (onParam (timeoutOf setting) setTimeout))

/-- The request the free memory port would grant, with the passover count after the grant (R101, R102). -/
def State.grantChoice (s : State) : Option (Access × Nat) :=
  arbitrate (portRequest .cp s.cp) s.sw.access (portRequest .hp s.hp) s.copyRequest s.mp.passover

/-- A grant, when the memory port is free and a request is present (R101, R103). -/
def State.grant (s : State) : State :=
  match s.mp.awaiting, s.grantChoice with
  | none, some (a, passover) => s.issue a passover
  | _, _                     => s

/-- MEMORY_GRANT (R101). -/
def execMemoryGrant (s : State) : Host.Outcome State Fault Refusal := .next s.grant

/-- What the client is handed for an SRAM answer (R104). -/
def clientAnswerOf : SramAnswer → ClientAnswer
  | .ok word => .ok word
  | .fault   => .failure .fault

/-- An answer of the SRAM: it belongs to the awaiting access when its tag is that access's tag, and is discarded
otherwise (R104, R105). -/
def State.takeAnswer (s : State) (tag : Tag) (ans : SramAnswer) : State :=
  match s.mp.awaiting with
  | some a => if a.tag = tag then s.endAccess a.access (clientAnswerOf ans) else s
  | none   => s

/-- MEMORY_ANSWER (R104, R105). -/
def execMemoryAnswer (tag : Tag) (ans : SramAnswer) (s : State) : Host.Outcome State Fault Refusal :=
  .next (s.takeAnswer tag ans)

/-- The awaiting access times out: it is retired, and its client is handed a failure of kind TIMEOUT. An access granted
with the timeout OFF has no limit and never times out (R106). -/
def State.timeOut (s : State) : State :=
  match s.mp.awaiting with
  | some a => if a.limit.isSome then s.endAccess a.access (.failure .timeout) else s
  | none   => s

/-- ACCESS_TIMEOUT: the awaiting access reaches its limit (R106; notes/assumptions/4.md). -/
def execAccessTimeout (s : State) : Host.Outcome State Fault Refusal := .next s.timeOut

/-- A port holds a translated write, not yet granted, whose address lies in an entry's segment of either bank (R26). -/
def writesInto (q : Port) (d : Descriptor) (seg : Segment) : Bool :=
  match q.service, q.queue with
  | .requesting t, r :: _ =>
    let inBank (bank : Bank) :=
      ({ base := (wordAt (d.bankBase bank) (seg.val * d.segLen)).toNat, size := d.segLen } : Region).holds t.addr
    opIsWrite r.op && (inBank .a || inBank .b)
  | _, _ => false

/-- R26 holds an entry back. -/
def State.heldBack (s : State) (e : Entry) : Bool :=
  (s.window e.slot).desc.any fun d => writesInto s.hp d e.seg || writesInto s.cp d e.seg

/-- The head is taken in flight when none is and R26 does not hold it back: word index 0, the first read requested
(R60). -/
def State.takeInFlight (s : State) : State :=
  match s.re.copy, s.re.queue with
  | none, e :: _ =>
    if s.heldBack e then s
    else { s with re := { s.re with copy := some { index := 0, step := .read, stage := .requested } } }
  | _, _ => s

/-- RESYNC_TAKE_IN_FLIGHT (R60). -/
def execResyncTakeInFlight (s : State) : Host.Outcome State Fault Refusal := .next s.takeInFlight

end Sys2Proof.Machine
end

