-- ==== Sys2Proof/Machine/Boundaries.lean ====
section
/-! DEFINITION. The boundary unit (chapter 8): the commands of the period timer, the boundary line, the watch and
FORCE BOUNDARY, and the unit's own events, a count step, a sample of BND and a watch step. -/
namespace Sys2Proof.Machine

/-- The settings PT SET carries (R128). -/
structure TimerSettings where
  exponent  : Nat
  mode      : TimerMode
  selection : Selection
  period    : Nat
deriving DecidableEq, Repr

/-- PT SET's operands, or none when they are BAD_PARAM (R128). -/
def timerSettingsOf (exponent mode selection : Byte) (period : BitVec 16) : Option TimerSettings :=
  match exponentOf exponent, modeOf mode, selectionOf selection with
  | some e, some m, some sel =>
    if period.toNat = 0 then none else some { exponent := e, mode := m, selection := sel, period := period.toNat }
  | _, _, _ => none

/-- PT SET with valid operands: all settings while STOPPED; while RUNNING only a pending period, and BAD_STATE when
another setting differs from the one in force (R128). -/
def setTimer (x : TimerSettings) (s : State) : State × Reply :=
  let pt := s.bu.pt
  if pt.running then
    if x.exponent = pt.exponent ∧ x.mode = pt.mode ∧ x.selection = pt.selection then
      ({ s with bu := { s.bu with pt := { pt with pendingPeriod := some x.period } } }, .done)
    else (s, .fail .badState)
  else
    ({ s with bu := { s.bu with pt := { pt with exponent := x.exponent, mode := x.mode, selection := x.selection,
                                                period := x.period, pendingPeriod := none } } }, .done)

/-- PT SET (R128). -/
def execPtSet (exponent mode selection : Byte) (period : BitVec 16) (s : State) : Host.Outcome State Fault Refusal :=
  .next (s.takeCommand (.ptSet exponent mode selection period)
    (onParam (timerSettingsOf exponent mode selection period) setTimer))

/-- PT START of a STOPPED timer: RUNNING from count 0, direction UP, prescale 0; BAD_STATE while RUNNING (R130). -/
def startTimer (s : State) : State × Reply :=
  if s.bu.pt.running then (s, .fail .badState)
  else ({ s with bu := { s.bu with pt := { s.bu.pt with running := true, count := 0, direction := .up,
                                                        prescale := 0 } } }, .done)

/-- PT START (R130). -/
def execPtStart (s : State) : Host.Outcome State Fault Refusal := .next (s.takeCommand .ptStart startTimer)

/-- PT STOP, in either state (R130). -/
def stopTimer (s : State) : State × Reply := ({ s with bu := { s.bu with pt := s.bu.pt.stop } }, .done)

/-- PT STOP (R130). -/
def execPtStop (s : State) : Host.Outcome State Fault Refusal := .next (s.takeCommand .ptStop stopTimer)

/-- The 12 data bytes of PT QUERY (R131, section 11.5.3). -/
def timerReport (bu : BoundaryUnit) : List Byte :=
  [byteOf bu.pt.running.toNat] ++ bytesOf2 bu.pt.count ++ [byteOf (decide (bu.pt.direction = .down)).toNat]
    ++ bytesOf2 bu.pt.period ++ bytesOf2 (bu.pt.pendingPeriod.getD 0) ++ bytes4 bu.ptSeq

/-- PT QUERY (R131). -/
def execPtQuery (s : State) : Host.Outcome State Fault Refusal :=
  .next (s.takeCommand .ptQuery fun s => (s, .report (timerReport s.bu)))

/-- FORCE BOUNDARY of a named source: one boundary is delivered, past the watch, the filter and the timer (R141). -/
def forceBoundary (src : Source) (s : State) : State × Reply := (s.deliver src, .done)

/-- FORCE BOUNDARY (R141). -/
def execForceBoundary (source : Byte) (s : State) : Host.Outcome State Fault Refusal :=
  .next (s.takeCommand (.forceBoundary source) (onParam (sourceOf source) forceBoundary))

/-- The exponent and depth of a filter setting, or none when they are BAD_PARAM (R133, R145). -/
def filterSettingsOf (exponent depth : Byte) : Option (Nat × Nat) :=
  match exponentOf exponent, depthOf depth with
  | some e, some d => some (e, d)
  | _, _           => none

/-- LINE SET with valid operands (R133). -/
def setLine (x : Nat × Nat) (s : State) : State × Reply :=
  ({ s with bu := { s.bu with line := s.bu.line.set x.1 x.2 } }, .done)

/-- LINE SET (R133). -/
def execLineSet (exponent depth : Byte) (s : State) : Host.Outcome State Fault Refusal :=
  .next (s.takeCommand (.lineSet exponent depth) (onParam (filterSettingsOf exponent depth) setLine))

/-- The watch WATCH SET asks for, restarted, or none when an operand is BAD_PARAM; of the enable and trip-on-lost
bytes only bit 0 counts (R139, section 11.5.1). -/
def watchOf (enable exponent : Byte) (min max : BitVec 16) (tripOnLost : Byte) : Option Watch :=
  match exponentOf exponent with
  | some e =>
    if min.toNat = 0 ∨ max.toNat ≤ min.toNat then none
    else some { enable := enable.getLsbD 0, exponent := e, min := min.toNat, max := max.toNat,
                tripOnLost := tripOnLost.getLsbD 0, count := 0, prescale := 0, first := true, history := [] }
  | none => none

/-- WATCH SET with valid operands: the new settings, and the watch restarted (R139). -/
def setWatch (w : Watch) (s : State) : State × Reply := ({ s with bu := { s.bu with watch := w } }, .done)

/-- WATCH SET (R139). -/
def execWatchSet (enable exponent : Byte) (min max : BitVec 16) (tripOnLost : Byte) (s : State) :
    Host.Outcome State Fault Refusal :=
  .next (s.takeCommand (.watchSet enable exponent min max tripOnLost)
    (onParam (watchOf enable exponent min max tripOnLost) setWatch))

/-- The 13 data bytes of WATCH QUERY (R140, section 11.5.3). -/
def watchReport (bu : BoundaryUnit) : List Byte :=
  [byteOf bu.watch.enable.toNat, byteOf bu.watch.first.toNat] ++ bytesOf2 bu.watch.count
    ++ bytesOf2 bu.watch.lastInterval ++ bytesOf2 bu.watch.mean ++ [byteOf bu.watch.history.length] ++ bytes4 bu.bxSeq

/-- WATCH QUERY (R140). -/
def execWatchQuery (s : State) : Host.Outcome State Fault Refusal :=
  .next (s.takeCommand .watchQuery fun s => (s, .report (watchReport s.bu)))

/-- A count step of the period timer, with its boundary; a STOPPED timer takes no step (R125 to R127). -/
def State.countStep (s : State) : State :=
  if s.bu.pt.running then
    let r := s.bu.pt.step
    let s' := { s with bu := { s.bu with pt := r.1 } }
    if r.2 then s'.deliver .pt else s'
  else s

/-- PT_COUNT_STEP: the timer's prescale count expires (R125; notes/assumptions/4.md). -/
def execPtCountStep (s : State) : Host.Outcome State Fault Refusal := .next s.countStep

/-- The boundary line filter takes a sample of BND; a rise is a BX edge, handed to the watch (R132, R134). -/
def State.sampleLine (s : State) : State :=
  let s' := { s with bu := { s.bu with line := s.bu.line.sample s.pins.bnd } }
  if s.bu.line.rises s.pins.bnd then s'.bxEdge else s'

/-- LINE_SAMPLE: the sample prescale count expires with BND at this level (R132; notes/assumptions/4.md, 12.md). -/
def execLineSample (bnd : Level) (s : State) : Host.Outcome State Fault Refusal :=
  .next { s with pins := { s.pins with bnd := bnd } }.sampleLine

/-- A watch step of a counting watch; at MAX the boundary is lost, which may demand a trip. A watch that is disabled,
or has its first flag set, takes no step (R136). -/
def State.watchCount (s : State) : State :=
  let w := s.bu.watch
  if w.counting then
    if w.count + 1 < w.max then
      { s with bu := { s.bu with watch := { w with count := w.count + 1, prescale := 0 } } }
    else
      let s' := { s with bu := { s.bu with watch := { w with count := 0, prescale := 0 } } }.raise .lostBoundary
      if w.tripOnLost then s'.tripDemand .watch else s'
  else s

/-- WATCH_STEP: the watch prescale count expires (R136; notes/assumptions/4.md). -/
def execWatchStep (s : State) : Host.Outcome State Fault Refusal := .next s.watchCount

end Sys2Proof.Machine
end

