-- ==== Sys2Proof/Machine/Trip.lean ====
section
/-! DEFINITION. The trip unit (chapter 9): TRIP SET, TRIP NOW, TRIP RELEASE and the samples of TRP. -/
namespace Sys2Proof.Machine

/-- TRIP SET's operands, or none when they are BAD_PARAM (R145). -/
def tripSettingsOf (exponent depth enable : Byte) : Option ((Nat × Nat) × Bool) :=
  match filterSettingsOf exponent depth, yesNoOf enable with
  | some f, some en => some (f, en)
  | _, _            => none

/-- TRIP SET with valid operands: the settings, the level kept, the counts restarted; no trip is taken or ended (R145). -/
def setTrip (x : (Nat × Nat) × Bool) (s : State) : State × Reply :=
  ({ s with tu := { s.tu with filter := s.tu.filter.set x.1.1 x.1.2, lineTrip := x.2 } }, .done)

/-- TRIP SET (R145). -/
def execTripSet (exponent depth enable : Byte) (s : State) : Host.Outcome State Fault Refusal :=
  .next (s.takeCommand (.tripSet exponent depth enable) (onParam (tripSettingsOf exponent depth enable) setTrip))

/-- TRIP NOW: a trip demand with reason COMMAND, answered DONE in every trip state (R146). -/
def execTripNow (s : State) : Host.Outcome State Fault Refusal :=
  .next (s.takeCommand .tripNow fun s => (s.tripDemand .command, .done))

/-- The trip unit after an accepted TRIP RELEASE: every SAFE entry gets restore pending and the state is RESTORING, or
NORMAL with no reason when no entry is SAFE (R148). -/
def TripUnit.release (tu : TripUnit) : TripUnit :=
  if tu.anySafe then
    { tu with state := .restoring
              views := tu.views.map fun v => if v.view = .safe then { v with restorePending := true } else v }
  else { tu with state := .normal, reason := none }

/-- TRIP RELEASE: BAD_STATE outside TRIPPED, and while line-trip is enabled with the filtered level ASSERTED (R148). -/
def releaseTrip (s : State) : State × Reply :=
  if s.tu.state = .tripped ∧ ¬(s.tu.lineTrip = true ∧ s.tu.filter.level = .high) then
    ({ s with tu := s.tu.release }, .done)
  else (s, .fail .badState)

/-- TRIP RELEASE (R148). -/
def execTripRelease (s : State) : Host.Outcome State Fault Refusal := .next (s.takeCommand .tripRelease releaseTrip)

/-- The trip filter takes a sample of TRP; a rise with line-trip enabled is a trip demand with reason LINE (R144). -/
def State.sampleTrip (s : State) : State :=
  let s' := { s with tu := { s.tu with filter := s.tu.filter.sample s.pins.trp } }
  if s.tu.filter.rises s.pins.trp && s.tu.lineTrip then s'.tripDemand .line else s'

/-- TRIP_SAMPLE: the trip sample prescale count expires with TRP at this level (R144; notes/assumptions/4.md, 12.md). -/
def execTripSample (trp : Level) (s : State) : Host.Outcome State Fault Refusal :=
  .next { s with pins := { s.pins with trp := trp } }.sampleTrip

end Sys2Proof.Machine
end

