-- ==== Sys2Proof/Machine/Clock.lean ====
section
/-! DEFINITION. One bridge clock (notes/assumptions/2.md): what the block does on an empty queue of commands. The four
prescalers and the clock count of the awaiting access rise, and whatever expires is taken (R106, R125, R132, R136,
R144). -/
namespace Sys2Proof.Machine

/-- A prescale count expires at this clock: it would reach 2^e (R125). -/
def expires (prescale exponent : Nat) : Bool := decide (2 ^ exponent ≤ prescale + 1)

/-- The clock at the memory port: the awaiting access's count rises, and at its limit it times out (R106). -/
def State.clockMemory (s : State) : State :=
  match s.mp.awaiting with
  | none   => s
  | some a =>
    let s' := { s with mp := { s.mp with awaiting := some { a with clocks := a.clocks + 1 } } }
    if a.limit.any (· ≤ a.clocks + 1) then s'.timeOut else s'

/-- The clock at the period timer (R125). -/
def State.clockTimer (s : State) : State :=
  let pt := s.bu.pt
  if pt.running then
    if expires pt.prescale pt.exponent then s.countStep
    else { s with bu := { s.bu with pt := { pt with prescale := pt.prescale + 1 } } }
  else s

/-- The clock at the boundary line filter (R132). -/
def State.clockLine (s : State) : State :=
  let f := s.bu.line
  if expires f.prescale f.exponent then s.sampleLine
  else { s with bu := { s.bu with line := { f with prescale := f.prescale + 1 } } }

/-- The clock at the trip filter (R144). -/
def State.clockTrip (s : State) : State :=
  let f := s.tu.filter
  if expires f.prescale f.exponent then s.sampleTrip
  else { s with tu := { s.tu with filter := { f with prescale := f.prescale + 1 } } }

/-- The clock at the watch (R136). -/
def State.clockWatch (s : State) : State :=
  let w := s.bu.watch
  if w.counting then
    if expires w.prescale w.exponent then s.watchCount
    else { s with bu := { s.bu with watch := { w with prescale := w.prescale + 1 } } }
  else s

/-- This clock's sample of BND is a BX edge that the watch accepts. -/
def State.edgeNow (s : State) : Bool :=
  expires s.bu.line.prescale s.bu.line.exponent && s.bu.line.rises s.pins.bnd && s.bu.watch.accepts

/-- A watch step falls on this clock. -/
def State.watchStepNow (s : State) : Bool :=
  s.bu.watch.counting && expires s.bu.watch.prescale s.bu.watch.exponent

/-- The clock at the line filter and the watch. When a watch step falls on it, its order against the sample is free,
and a step whose count an accepted edge has restarted is not taken (R138). Otherwise the prescale count of a counting
watch rises before the sample is judged. -/
def State.clockLineAndWatch (s : State) (stepFirst : Bool) : State :=
  if s.watchStepNow && !stepFirst then
    if s.edgeNow then s.clockLine else s.clockLine.clockWatch
  else s.clockWatch.clockLine

/-- One bridge clock. The order of a trip sample and a watch step on one clock is free too (R153). -/
def State.tick (s : State) : State :=
  let n := s.choices
  let s := { s with choices := n + 1 }.clockMemory.clockTimer
  if Config.tripSampleFirst n then s.clockTrip.clockLineAndWatch (Config.watchStepFirst n)
  else (s.clockLineAndWatch (Config.watchStepFirst n)).clockTrip

end Sys2Proof.Machine
end

