-- ==== Sys2Proof/Machine/Flip.lean ====
section
/-! DEFINITION. A window takes a delivered boundary (chapter 3): cadence, restore, flip and late flip. -/
namespace Sys2Proof.Machine

/-- The stamp record of a flip, from the window before it (R42). -/
def flipRecord (k : Slot) (w : Window) (d : Descriptor) (a : Addr) (seq : BitVec 32) : StampRecord :=
  { slot := k, stampAddr := a, gen := w.gen + 1, live := w.live.other, lateCount := w.lateCount,
    held := d.singleShot, enable := false, seq := seq }

/-- The window record after a flip (R40, R43). -/
def Window.flipped (w : Window) (d : Descriptor) : Window :=
  { w.cleaned with
    live := w.live.other
    gen := w.gen + 1
    lateCount := 0
    life := if d.singleShot then .held else w.life }

/-- A flip: the record, the dirty segments handed to the resync engine, the stamp record handed to the stamp writer
(R40 to R43). -/
def State.flip (s : State) (k : Slot) (d : Descriptor) (seq : BitVec 32) : State :=
  let w := s.window k
  { s.setWindow k (w.flipped d) with
    re := s.re.append k w.dirty
    sw := match d.stampAddr with
      | some a => s.sw.append (flipRecord k w d a seq)
      | none   => s.sw }

/-- A late boundary: the late count rises unless it is 255, and LATE_FLIP is raised (R46). -/
def State.countLate (s : State) (k : Slot) : State :=
  let w := s.window k
  (s.setWindow k { w with lateCount := min (w.lateCount + 1) Config.lateCountMax }).raise .lateFlip

/-- The flip conditions of R39. -/
def State.mayFlip (s : State) (k : Slot) : Bool :=
  decide ((s.window k).life = .active) && !s.re.holds k && decide ((s.tu.entry k).view = .live)

/-- The restore of a window at its eligible boundary (R149). -/
def State.restore (s : State) (k : Slot) : State :=
  if (s.tu.entry k).restorePending then { s with tu := s.tu.toLive k } else s

/-- An eligible boundary: restore, then flip or count late when the update is COMPLETE (R38). -/
def State.eligible (s : State) (k : Slot) (d : Descriptor) (seq : BitVec 32) : State :=
  let s := s.restore k
  if (s.window k).phase = .complete then
    if s.mayFlip k then s.flip k d seq else s.countLate k
  else s

/-- A window takes the oldest boundary delivered to it: its cadence count rises, and the boundary that completes it is
eligible (R36, R37). -/
def State.takeBoundary (s : State) (k : Slot) : State :=
  let w := s.window k
  match w.inbox, w.desc with
  | b :: rest, some d =>
    if w.cadenceCount + 1 < d.cadence then
      s.setWindow k { w with inbox := rest, cadenceCount := w.cadenceCount + 1 }
    else
      (s.setWindow k { w with inbox := rest, cadenceCount := 0 }).eligible k d b.seq
  | _, _ => s

/-- WINDOW_TAKE_BOUNDARY (R36). -/
def execWindowTakeBoundary (k : Slot) (s : State) : Host.Outcome State Fault Refusal := .next (s.takeBoundary k)

end Sys2Proof.Machine
end

