-- ==== Sys2Proof/Machine/Attention.lean ====
section
/-! DEFINITION. The commands of the attention unit (chapter 10). -/
namespace Sys2Proof.Machine

/-- READ CAUSES (R159). -/
def execReadCauses (s : State) : Host.Outcome State Fault Refusal :=
  .next (s.takeCommand .readCauses fun s => (s, .report [s.au.causes, s.au.enables]))

/-- CLEAR CAUSES: the named causes leave the cause set (R159). -/
def execClearCauses (causes : Byte) (s : State) : Host.Outcome State Fault Refusal :=
  .next (s.takeCommand (.clearCauses causes) fun s =>
    ({ s with au := { s.au with causes := s.au.causes &&& ~~~causes } }, .done))

/-- SET MASK: the named causes replace the enable set (R159). -/
def execSetMask (causes : Byte) (s : State) : Host.Outcome State Fault Refusal :=
  .next (s.takeCommand (.setMask causes) fun s => ({ s with au := { s.au with enables := causes } }, .done))

/-- The 8 data bytes of READ FAULT (R161, section 11.5.3). -/
def faultReport (r : FaultRecord) (remaining : Nat) : List Byte :=
  [r.origin.code, r.kind.code, byteOf r.isWrite.toNat, slotCode r.slot] ++ addrBytes r.addr ++ [byteOf remaining]

/-- READ FAULT: the oldest record is removed and reported, or EMPTY (R161). -/
def readFault (s : State) : State × Reply :=
  match s.au.faults with
  | []      => (s, .fail .empty)
  | r :: rs => ({ s with au := { s.au with faults := rs } }, .report (faultReport r rs.length))

/-- READ FAULT (R161). -/
def execReadFault (s : State) : Host.Outcome State Fault Refusal := .next (s.takeCommand .readFault readFault)

/-- The 5 data bytes of READ REFUSAL (R162, section 11.5.3). -/
def refusalReport (r : RefusalRecord) : List Byte := portCode r.port :: addrBytes r.addr ++ [r.reason.code]

/-- READ REFUSAL: the last refusal record is reported and kept, or EMPTY (R162). -/
def readRefusal (s : State) : State × Reply :=
  match s.au.refusal with
  | none   => (s, .fail .empty)
  | some r => (s, .report (refusalReport r))

/-- READ REFUSAL (R162). -/
def execReadRefusal (s : State) : Host.Outcome State Fault Refusal := .next (s.takeCommand .readRefusal readRefusal)

end Sys2Proof.Machine
end

