-- ==== Sys2Proof/Machine/Link.lean ====
section
/-! DEFINITION. The management link's own commands and events (chapter 11): NOP, QUERY DEVICE, the fall of CSn and the
end of a discarded frame. -/
namespace Sys2Proof.Machine

/-- NOP changes no state and is answered DONE; with more padding than a NOP frame holds it is answered BAD_LENGTH
(R169). -/
def answerNop (padding : List Byte) (s : State) : State × Reply :=
  if padding.length ≤ Config.maxPadding then (s, .done) else (s, .fail .badLength)

/-- NOP (R169). -/
def execNop (padding : List Byte) (s : State) : Host.Outcome State Fault Refusal :=
  .next (s.takeCommand (.nop padding) (answerNop padding))

/-- The slot and segment bytes of the in-flight entry, 0xFF 0xFF when none is in flight (R58). -/
def inFlightBytes : Option Entry → List Byte
  | some e => [byteOf e.slot.val, byteOf e.seg.val]
  | none   => [0xFF#8, 0xFF#8]

/-- The host port's parked flag: set in PARKED and clear in every other state (R80). -/
def State.parked (s : State) : Bool := decide (s.hp.service = .parked)

/-- The 10 data bytes of QUERY DEVICE (R170, section 11.5.3). -/
def deviceReport (s : State) : List Byte :=
  [s.tu.state.code, tripReasonCode s.tu.reason] ++ bytesOf2 s.re.queue.length ++ inFlightBytes s.re.inFlight
    ++ [byteOf s.sw.queue.length, byteOf s.hp.queue.length, byteOf s.cp.queue.length, byteOf s.parked.toNat]

/-- QUERY DEVICE (R170). -/
def execQueryDevice (s : State) : Host.Outcome State Fault Refusal :=
  .next (s.takeCommand .queryDevice fun s => (s, .report (deviceReport s)))

/-- CSN_FALL: the receive frame is cleared and a new frame begins (R165). -/
def execCsnFall (s : State) : Host.Outcome State Fault Refusal :=
  .next { s with ml := { s.ml with frame := .receiving, rx := [], sdo := [] } }

/-- DISCARDED_FRAME: CSn rises at the end of a frame that fell before or during a full reset; the response buffer is
kept. With no such frame under way nothing happens (R171). -/
def execDiscardedFrame (s : State) : Host.Outcome State Fault Refusal :=
  .next (if s.ml.frame = .discarding then { s with ml := s.ml.discardFrame } else s)

end Sys2Proof.Machine
end

