-- ==== Sys2Proof/Machine/Resets.lean ====
section
/-! DEFINITION. The two resets (R171, R172) and each block's part of the soft reset. -/
namespace Sys2Proof.Machine

/-- FULL_RESET: every block takes its full-reset values. The levels of the lines, the records of what has been given
out, the counter of free values and the queue of commands are not the bridge's to reset. A frame whose CSn is still low
at the rise of RSTn will be discarded (R171; notes/assumptions/8.md). -/
def State.fullReset (s : State) (csnLow : Bool) : State :=
  { State.reset with
    ml := { ManagementLink.initial with frame := if csnLow then .discarding else .none }
    pins := s.pins
    out := s.out
    choices := s.choices
    pending := s.pending }

/-- FULL_RESET (R171). -/
def execFullReset (csnLow : Bool) (s : State) : Host.Outcome State Fault Refusal := .next (s.fullReset csnLow)

/-- A window's part of the soft reset: service becomes DEFINED, the runtime part of a slot that is not UNUSED restarts
but for live bank and generation, and no boundary delivered before reaches it (R21, R36). -/
def Window.softReset (w : Window) : Window :=
  match w.life with
  | .unused => w
  | .defined | .active | .held | .faulted => { w.restarted with life := .defined, inbox := [] }

/-- The memory port's part: the awaiting access is retired, the passover count 0; tag and timeout kept (R110). -/
def MemoryPort.softReset (mp : MemoryPort) : MemoryPort := { mp with awaiting := none, passover := 0 }

/-- The trip unit's part: NORMAL, every entry LIVE, the filter restarted; the settings kept (R154). -/
def TripUnit.softReset (tu : TripUnit) : TripUnit :=
  { tu with state := .normal, reason := none, filter := tu.filter.softReset, views := Vector.replicate 16 .initial }

/-- A port's ABORTED responses, one for each request of its queue (R97). -/
def abortedResponses (q : Port) : List PortResponse := q.queue.map fun _ => .aborted

/-- Every block's part of the soft reset but the link's (R172). The resync engine and the stamp writer are left as after
a full reset (R77, R121). -/
def State.softReset (s : State) : State :=
  { s with
    windows := s.windows.map Window.softReset
    re := .initial
    sw := .initial
    hp := s.hp.emptied
    cp := s.cp.emptied
    mp := s.mp.softReset
    bu := s.bu.softReset
    tu := s.tu.softReset
    au := s.au.softReset
    out := (s.out.respond .host (abortedResponses s.hp)).respond .consumer (abortedResponses s.cp) }

/-- SOFT RESET (R172): every block's part in the event of the CSn rise, and the IDLE response in the buffer. At the rise
of a frame that fell before or during a full reset nothing is taken (R171). -/
def execSoftReset (s : State) : Host.Outcome State Fault Refusal :=
  .next (if s.ml.frame = .discarding then { s with ml := s.ml.discardFrame }
    else { s.softReset with ml := s.ml.endFrame (frameBits .softReset) .idle })

end Sys2Proof.Machine
end

