-- ==== Sys2Proof/Machine/Windows.lean ====
section
/-! DEFINITION. The commands of the window table (chapter 1, ABORT of chapter 2): DEFINE, ENABLE, DISABLE, CLEAR, HOLD,
RELEASE, ABORT and QUERY WINDOW. Each is taken whole; a refused command changes nothing (R1). -/
namespace Sys2Proof.Machine

/-- The regions of a new descriptor break the overlap law: among themselves, or with those of another slot that is not
UNUSED (R7). The slot's own old descriptor is left out. -/
def State.overlaps (s : State) (k : Slot) (d : Descriptor) : Bool :=
  !pairwiseDisjoint d.claimed ||
    (List.finRange 16).any fun j =>
      decide (j ≠ k) && decide ((s.window j).life ≠ .unused) &&
        (s.window j).desc.any fun e => !crossDisjoint d.claimed e.claimed

/-- DEFINE for a slot that exists: BAD_STATE, BAD_PARAM, OVERLAP, or the slot loaded and DEFINED (R6, R8). -/
def defineAt (o : DefineOperands) (k : Slot) (s : State) : State × Reply :=
  let w := s.window k
  if w.life.inService then (s, .fail .badState)
  else match descriptorOf o with
    | none => (s, .fail .badParam)
    | some d =>
      if s.overlaps k d then (s, .fail .overlap)
      else (s.setWindow k { w.restarted with desc := some d, life := .defined, gen := 0, live := .a }, .done)

/-- DEFINE (R6 to R8). -/
def execDefine (o : DefineOperands) (s : State) : Host.Outcome State Fault Refusal :=
  .next (s.takeCommand (.define o) (onSlot o.slot (defineAt o)))

/-- The enable stamp record of a window (R10, R113). -/
def enableRecord (s : State) (k : Slot) (w : Window) (d : Descriptor) (a : Addr) : StampRecord :=
  { slot := k, stampAddr := a, gen := w.gen, live := w.live, lateCount := 0, held := false, enable := true,
    seq := s.bu.seq d.source }

/-- ENABLE for a slot that exists: from DEFINED, the record restarts ACTIVE, every segment is queued for priming, the
enable stamp record is queued, and the view is set from the trip state; otherwise BAD_STATE (R10, R150). -/
def enableAt (k : Slot) (s : State) : State × Reply :=
  let w := s.window k
  match w.life, w.desc with
  | .defined, some d =>
    ({ s.setWindow k { w.restarted with life := .active } with
        re := s.re.append k allSegments
        sw := match d.stampAddr with
          | some a => s.sw.append (enableRecord s k w d a)
          | none   => s.sw
        tu := s.tu.setEntry k (s.tu.enableEntry d.tripProtected) }, .done)
  | _, _ => (s, .fail .badState)

/-- ENABLE (R10). -/
def execEnable (slot : Byte) (s : State) : Host.Outcome State Fault Refusal :=
  .next (s.takeCommand (.enable slot) (onSlot slot enableAt))

/-- DISABLE for a slot that exists: from service, the record restarts DEFINED, the window's entries are purged, its
stamp record is removed, its view becomes LIVE, and boundaries not yet taken no longer reach it; otherwise BAD_STATE
(R13, R36, R68, R118, R151). -/
def disableAt (k : Slot) (s : State) : State × Reply :=
  let w := s.window k
  if w.life.inService then
    ({ s.setWindow k { w.restarted with life := .defined, inbox := [] } with
        re := s.re.purge k
        sw := s.sw.remove k
        tu := s.tu.toLive k }, .done)
  else (s, .fail .badState)

/-- DISABLE (R13). -/
def execDisable (slot : Byte) (s : State) : Host.Outcome State Fault Refusal :=
  .next (s.takeCommand (.disable slot) (onSlot slot disableAt))

/-- CLEAR for a slot that exists: from DEFINED, the descriptor is discarded and the rest of the record kept (R15). -/
def clearAt (k : Slot) (s : State) : State × Reply :=
  let w := s.window k
  if w.life = .defined then (s.setWindow k { w with life := .unused, desc := none }, .done)
  else (s, .fail .badState)

/-- CLEAR (R15). -/
def execClear (slot : Byte) (s : State) : Host.Outcome State Fault Refusal :=
  .next (s.takeCommand (.clear slot) (onSlot slot clearAt))

/-- HOLD for a slot that exists: ACTIVE becomes HELD and nothing else changes (R11). -/
def holdAt (k : Slot) (s : State) : State × Reply :=
  let w := s.window k
  if w.life = .active then (s.setWindow k { w with life := .held }, .done) else (s, .fail .badState)

/-- HOLD (R11). -/
def execHold (slot : Byte) (s : State) : Host.Outcome State Fault Refusal :=
  .next (s.takeCommand (.hold slot) (onSlot slot holdAt))

/-- RELEASE for a slot that exists: HELD becomes ACTIVE and nothing else changes (R12). -/
def releaseAt (k : Slot) (s : State) : State × Reply :=
  let w := s.window k
  if w.life = .held then (s.setWindow k { w with life := .active }, .done) else (s, .fail .badState)

/-- RELEASE (R12). -/
def execRelease (slot : Byte) (s : State) : Host.Outcome State Fault Refusal :=
  .next (s.takeCommand (.release slot) (onSlot slot releaseAt))

/-- ABORT for a slot that exists: in ACTIVE or HELD with an update under way, the dirty set is handed to the resync
engine and the record becomes CLEAN; otherwise BAD_STATE (R32). -/
def abortAt (k : Slot) (s : State) : State × Reply :=
  let w := s.window k
  if (w.life = .active ∨ w.life = .held) ∧ w.phase ≠ .clean then
    ({ s.setWindow k w.cleaned with re := s.re.append k w.dirty }, .done)
  else (s, .fail .badState)

/-- ABORT (R32). -/
def execAbort (slot : Byte) (s : State) : Host.Outcome State Fault Refusal :=
  .next (s.takeCommand (.abort slot) (onSlot slot abortAt))

/-- The flags byte of the QUERY WINDOW response: live bank, view SAFE, restore pending, parked (section 11.5.3). The
parked bit is set while the awaited entry is an entry of the window (R59). -/
def windowFlags (s : State) (k : Slot) : Byte :=
  byteOf ((s.window k).live.bit + 2 * (decide ((s.tu.entry k).view = .safe)).toNat
    + 4 * (s.tu.entry k).restorePending.toNat + 8 * (s.re.awaited.any (·.slot = k)).toNat)

/-- The 12 data bytes of QUERY WINDOW (R19, section 11.5.3). -/
def windowReport (s : State) (k : Slot) : List Byte :=
  let w := s.window k
  [w.life.code, w.phase.code, windowFlags s k] ++ bytes2 w.gen ++ bytes4 w.dirty
    ++ [byteOf (s.re.countOf k), byteOf w.cadenceCount, byteOf w.lateCount]

/-- QUERY WINDOW for a slot that exists: accepted in any lifecycle, changes nothing (R19). -/
def queryWindowAt (k : Slot) (s : State) : State × Reply := (s, .report (windowReport s k))

/-- QUERY WINDOW (R19). -/
def execQueryWindow (slot : Byte) (s : State) : Host.Outcome State Fault Refusal :=
  .next (s.takeCommand (.queryWindow slot) (onSlot slot queryWindowAt))

end Sys2Proof.Machine
end

