-- ==== Sys2Proof/Machine/Frames.lean ====
section
/-! DEFINITION. A frame as its bits (R166, R167): one that fails a check changes the response buffer only; one that
passes is taken as the command it carries. -/
namespace Sys2Proof.Machine

/-- The response to a frame that fails R166: the failure status and the echo (R166, R168). -/
def failedResponse (bits : List Bool) (st : Status) : LinkResponse :=
  { status := st.code, echo := frameEcho bits, data := [] }

/-- A frame that passes R166 is handed to the block that owns its command (R167; notes/assumptions/17.md). The rows that
are not sent in frames are not commands of the link, and `judgeFrame` gives none of them. -/
def takeFrame (c : Instr) (s : State) : Host.Outcome State Fault Refusal :=
  match c with
  | .nop padding => execNop padding s
  | .queryDevice => execQueryDevice s
  | .define ops => execDefine ops s
  | .enable slot => execEnable slot s
  | .disable slot => execDisable slot s
  | .clear slot => execClear slot s
  | .hold slot => execHold slot s
  | .release slot => execRelease slot s
  | .abort slot => execAbort slot s
  | .queryWindow slot => execQueryWindow slot s
  | .ptSet e m sel p => execPtSet e m sel p s
  | .ptStart => execPtStart s
  | .ptStop => execPtStop s
  | .ptQuery => execPtQuery s
  | .forceBoundary source => execForceBoundary source s
  | .lineSet e d => execLineSet e d s
  | .watchSet en e mn mx t => execWatchSet en e mn mx t s
  | .watchQuery => execWatchQuery s
  | .tripSet e d en => execTripSet e d en s
  | .tripNow => execTripNow s
  | .tripRelease => execTripRelease s
  | .readCauses => execReadCauses s
  | .clearCauses causes => execClearCauses causes s
  | .setMask causes => execSetMask causes s
  | .readFault => execReadFault s
  | .readRefusal => execReadRefusal s
  | .memorySet setting => execMemorySet setting s
  | .softReset => execSoftReset s
  | .fullReset _ | .frameNotTaken _ | .requestAccept _ _ | .hostTakeInService | .consumerTakeInService
  | .parkedWriteTranslateAfresh | .memoryGrant | .memoryAnswer _ _ | .accessTimeout | .resyncTakeInFlight
  | .ptCountStep | .lineSample _ | .watchStep | .tripSample _ | .windowTakeBoundary _ | .csnFall
  | .discardedFrame => .next s

/-- FRAME_NOT_TAKEN: CSn rises after these bits, and the link judges the frame (R166). At the rise of a frame that fell
before or during a full reset nothing is judged (R171). -/
def execFrameNotTaken (bits : List Bool) (s : State) : Host.Outcome State Fault Refusal :=
  if s.ml.frame = .discarding then .next { s with ml := s.ml.discardFrame }
  else match judgeFrame bits with
    | .error st => .next { s with ml := s.ml.endFrame bits (failedResponse bits st) }
    | .ok c     => takeFrame c s

end Sys2Proof.Machine
end

