-- ==== Sys2Proof/Machine/Ports.lean ====
section
/-! DEFINITION. The request path (chapter 5): acceptance, the two translation tables, and the parked host write. -/
namespace Sys2Proof.Machine

/-- REQUEST_ACCEPT: a master offers a request, which is accepted, or held off until a request leaves (R78). -/
def execRequestAccept (p : PortId) (r : Request) (s : State) : Host.Outcome State Fault Refusal :=
  .next (s.setPort p ((s.port p).offered r))

/-- The outcome of a translation (R81). -/
inductive Translation where
  | access (t : Translated)
  | refuse (reason : Reason)
  | fill (word : Word)
  | park (e : Entry)
deriving DecidableEq, Repr

/-- An address passed to memory unchanged (R84). -/
def passed (a : Addr) (slot : Option Slot) : Translation := .access { addr := a, slot := slot, staged := false }

/-- A word of a bank of a window. -/
def bankWord (k : Slot) (d : Descriptor) (bank : Bank) (offset : Nat) : Translation :=
  .access { addr := wordAt (d.bankBase bank) offset, slot := some k, staged := false }

/-- A host read of a logical range (R85, the table of section 5.3). -/
def hostReadLogical (s : State) (k : Slot) (w : Window) (d : Descriptor) (offset : Nat) : Translation :=
  match w.life with
  | .active | .held =>
    if d.hostView = .shadow ∧ s.re.has { slot := k, seg := d.segmentOf offset } = false then
      bankWord k d w.live.other offset
    else bankWord k d w.live offset
  | .unused | .defined | .faulted => bankWord k d w.live offset

/-- A host write of a logical range (R86, the table of section 5.3). -/
def hostWriteLogical (s : State) (k : Slot) (w : Window) (d : Descriptor) (offset : Nat) : Translation :=
  match w.life with
  | .active =>
    if s.re.has { slot := k, seg := d.segmentOf offset } then .park { slot := k, seg := d.segmentOf offset }
    else .access { addr := wordAt (d.bankBase w.live.other) offset, slot := some k, staged := true }
  | .held    => .refuse .held
  | .faulted => .refuse .faulted
  | .unused | .defined => bankWord k d w.live offset

/-- The concealed region, the same for both ports: open in DEFINED, refused in service (R87, R90, R91). -/
def concealedAccess (w : Window) (k : Slot) (a : Addr) : Translation :=
  if w.life.inService then .refuse .concealed else passed a (some k)

/-- The stamp pair, the same for both ports: reads pass, writes are refused (R87, R90). -/
def stampAccess (k : Slot) (r : Request) : Translation :=
  if opIsWrite r.op then .refuse .stampWrite else passed r.addr (some k)

/-- The host translation table (section 5.3, R84 to R87). -/
def State.translateHost (s : State) (r : Request) : Translation :=
  match s.classify r.addr with
  | .logical k offset =>
    match (s.window k).desc with
    | some d =>
      if opIsWrite r.op then hostWriteLogical s k (s.window k) d offset
      else hostReadLogical s k (s.window k) d offset
    | none => passed r.addr none
  | .concealed k => concealedAccess (s.window k) k r.addr
  | .stampPair k => stampAccess k r
  | .elsewhere   => passed r.addr none

/-- A consumer read of a logical range: the live bank in DEFINED and in view LIVE; in view SAFE the safe region, or the
fill word when there is none (R88, R89). -/
def consumerReadLogical (s : State) (k : Slot) (w : Window) (d : Descriptor) (offset : Nat) : Translation :=
  if w.life.inService ∧ (s.tu.entry k).view = .safe then
    match d.safeBase with
    | some base => .access { addr := wordAt base offset, slot := some k, staged := false }
    | none      => .fill d.fillWord
  else bankWord k d w.live offset

/-- The consumer translation table (section 5.4, R88 to R90). -/
def State.translateConsumer (s : State) (r : Request) : Translation :=
  match s.classify r.addr with
  | .logical k offset =>
    match (s.window k).desc with
    | some d =>
      if opIsWrite r.op then .refuse .consumerWrite
      else consumerReadLogical s k (s.window k) d offset
    | none => passed r.addr none
  | .concealed k => concealedAccess (s.window k) k r.addr
  | .stampPair k => stampAccess k r
  | .elsewhere   => passed r.addr none

/-- A staged write takes its effects on the update record at its translation (R23); any other leaves it. -/
def State.stageFor (s : State) (t : Translated) (a : Addr) : State :=
  match t.staged, s.classify a with
  | true, .logical k offset =>
    match (s.window k).desc with
    | some d => s.setWindow k ((s.window k).stage (d.segmentOf offset))
    | none   => s
  | _, _ => s

/-- The outcome of a translation is carried out at the port, in the event of the translation (R81). -/
def State.carryOut (s : State) (p : PortId) (a : Addr) : Translation → State
  | .access t => (s.stageFor t a).request p t
  | .refuse r => s.refuseHead p a r
  | .fill w   => s.answerHead p (.ok w)
  | .park e   => { s.setPort p { s.port p with service := .parked } with re := s.re.await e }

/-- The host port translates its head request (R81, R84). -/
def State.serveHost (s : State) (r : Request) : State := s.carryOut .host r.addr (s.translateHost r)

/-- The idle host port takes its head request in service; a write with no lane is answered OK without translation
(R78, R81). -/
def State.hostTake (s : State) : State :=
  match s.hp.service, s.hp.queue with
  | .idle, r :: _ => if opNoLane r.op then s.answerHead .host (.ok 0) else s.serveHost r
  | _, _          => s

/-- HOST_TAKE_IN_SERVICE (R81, R84). -/
def execHostTakeInService (s : State) : Host.Outcome State Fault Refusal := .next s.hostTake

/-- The idle consumer port takes its head request in service (R78, R81, R88). -/
def State.consumerTake (s : State) : State :=
  match s.cp.service, s.cp.queue with
  | .idle, r :: _ =>
    if opNoLane r.op then s.answerHead .consumer (.ok 0)
    else s.carryOut .consumer r.addr (s.translateConsumer r)
  | _, _ => s

/-- CONSUMER_TAKE_IN_SERVICE (R81, R88). -/
def execConsumerTakeInService (s : State) : Host.Outcome State Fault Refusal := .next s.consumerTake

/-- A released parked write, one whose awaited entry has left the queue, is translated afresh under the window's state
at this moment (R66, R92). -/
def State.retranslate (s : State) : State :=
  match s.hp.service, s.re.awaited, s.hp.queue with
  | .parked, none, r :: _ => s.serveHost r
  | _, _, _               => s

/-- PARKED_WRITE_TRANSLATE_AFRESH (R66). -/
def execParkedWriteTranslateAfresh (s : State) : Host.Outcome State Fault Refusal := .next s.retranslate

end Sys2Proof.Machine
end

