-- ==== Sys2Proof/Machine/Dispatch.lean ====
section
/-! DEFINITION. One arm per command: each row of spec/opcode_table.json and its meaning. -/
namespace Sys2Proof.Machine

def exec (i : Instr) (s : State) : Host.Outcome State Fault Refusal :=
  match i with
  | .fullReset csnLow => Sys2Proof.Machine.execFullReset csnLow s
  | .frameNotTaken bits => Sys2Proof.Machine.execFrameNotTaken bits s
  | .nop padding => Sys2Proof.Machine.execNop padding s
  | .queryDevice => Sys2Proof.Machine.execQueryDevice s
  | .define ops => Sys2Proof.Machine.execDefine ops s
  | .enable slot => Sys2Proof.Machine.execEnable slot s
  | .disable slot => Sys2Proof.Machine.execDisable slot s
  | .clear slot => Sys2Proof.Machine.execClear slot s
  | .hold slot => Sys2Proof.Machine.execHold slot s
  | .release slot => Sys2Proof.Machine.execRelease slot s
  | .abort slot => Sys2Proof.Machine.execAbort slot s
  | .queryWindow slot => Sys2Proof.Machine.execQueryWindow slot s
  | .ptSet exponent mode selection period => Sys2Proof.Machine.execPtSet exponent mode selection period s
  | .ptStart => Sys2Proof.Machine.execPtStart s
  | .ptStop => Sys2Proof.Machine.execPtStop s
  | .ptQuery => Sys2Proof.Machine.execPtQuery s
  | .forceBoundary source => Sys2Proof.Machine.execForceBoundary source s
  | .lineSet exponent depth => Sys2Proof.Machine.execLineSet exponent depth s
  | .watchSet enable exponent mn mx tripOnLost => Sys2Proof.Machine.execWatchSet enable exponent mn mx tripOnLost s
  | .watchQuery => Sys2Proof.Machine.execWatchQuery s
  | .tripSet exponent depth enable => Sys2Proof.Machine.execTripSet exponent depth enable s
  | .tripNow => Sys2Proof.Machine.execTripNow s
  | .tripRelease => Sys2Proof.Machine.execTripRelease s
  | .readCauses => Sys2Proof.Machine.execReadCauses s
  | .clearCauses causes => Sys2Proof.Machine.execClearCauses causes s
  | .setMask causes => Sys2Proof.Machine.execSetMask causes s
  | .readFault => Sys2Proof.Machine.execReadFault s
  | .readRefusal => Sys2Proof.Machine.execReadRefusal s
  | .memorySet setting => Sys2Proof.Machine.execMemorySet setting s
  | .softReset => Sys2Proof.Machine.execSoftReset s
  | .requestAccept port request => Sys2Proof.Machine.execRequestAccept port request s
  | .hostTakeInService => Sys2Proof.Machine.execHostTakeInService s
  | .consumerTakeInService => Sys2Proof.Machine.execConsumerTakeInService s
  | .parkedWriteTranslateAfresh => Sys2Proof.Machine.execParkedWriteTranslateAfresh s
  | .memoryGrant => Sys2Proof.Machine.execMemoryGrant s
  | .memoryAnswer tag answer => Sys2Proof.Machine.execMemoryAnswer tag answer s
  | .accessTimeout => Sys2Proof.Machine.execAccessTimeout s
  | .resyncTakeInFlight => Sys2Proof.Machine.execResyncTakeInFlight s
  | .ptCountStep => Sys2Proof.Machine.execPtCountStep s
  | .lineSample bnd => Sys2Proof.Machine.execLineSample bnd s
  | .watchStep => Sys2Proof.Machine.execWatchStep s
  | .tripSample trp => Sys2Proof.Machine.execTripSample trp s
  | .windowTakeBoundary slot => Sys2Proof.Machine.execWindowTakeBoundary slot s
  | .csnFall => Sys2Proof.Machine.execCsnFall s
  | .discardedFrame => Sys2Proof.Machine.execDiscardedFrame s

end Sys2Proof.Machine
end

