-- ==== Sys2Proof/Safety.lean ====
section
/-! DEFINITION. What holds of every state the bridge can reach: the laws the spec states of its records, queues, counters
and views, block by block. Each is a predicate on any state; the statements say that every step keeps them. -/
namespace Sys2Proof.Machine

/-! ### Windows (chapters 1 and 2) -/

/-- A descriptor DEFINE can load (R2, R6, R7). -/
def Descriptor.valid (d : Descriptor) : Prop :=
  5 ≤ d.sizeExp ∧ d.sizeExp ≤ 14 ∧ 1 ≤ d.cadence ∧ d.cadence ≤ 255 ∧ d.closingOffset < d.size ∧
  d.logicalBase.toNat % d.size = 0 ∧ d.bankABase.toNat % d.size = 0 ∧ d.bankBBase.toNat % d.size = 0 ∧
  (∀ a ∈ d.safeBase, a.toNat % d.size = 0) ∧ (∀ a ∈ d.stampAddr, a.toNat % 2 = 0) ∧
  d.bankBBase ≠ d.bankABase ∧ pairwiseDisjoint d.claimed = true

/-- The laws of one window record: a descriptor exactly outside UNUSED (R2, R20); a valid one; CLEAN exactly with an
empty dirty set, and always in UNUSED, DEFINED and FAULTED (R22); the counts in their ranges (R18); and boundaries
waiting only in service, all of the window's own source (R36). -/
structure Window.Lawful (w : Window) : Prop where
  desc_iff   : w.desc.isSome = true ↔ w.life ≠ .unused
  desc_valid : ∀ d ∈ w.desc, d.valid
  clean_iff  : w.phase = .clean ↔ w.dirty = 0
  clean_in   : w.life ≠ .active → w.life ≠ .held → w.phase = .clean
  cadence_lt : ∀ d ∈ w.desc, w.cadenceCount < d.cadence
  late_le    : w.lateCount ≤ 255
  inbox_in   : w.life.inService = false → w.inbox = []
  inbox_src  : ∀ d ∈ w.desc, ∀ b ∈ w.inbox, b.source = d.source

/-- Every window record is lawful. -/
def WindowsLawful (s : State) : Prop := ∀ k, (s.window k).Lawful

/-- The overlap law between windows (R4): claimed regions of two slots share no word. -/
def NoOverlap (s : State) : Prop :=
  ∀ j k, j ≠ k → ∀ d ∈ (s.window j).desc, ∀ e ∈ (s.window k).desc, crossDisjoint d.claimed e.claimed = true

/-! ### Resync queue (chapter 4) -/

/-- The laws of the resync queue: no duplicates (R56); entries only of ACTIVE or HELD windows (R9, R71); no segment both
queued and dirty (R24); an in-flight entry is the head, its word index inside the segment (R59); the awaited entry is
an entry of the queue (R59). -/
structure QueueLawful (s : State) : Prop where
  nodup      : s.re.queue.Nodup
  in_service : ∀ e ∈ s.re.queue, (s.window e.slot).life = .active ∨ (s.window e.slot).life = .held
  not_dirty  : ∀ e ∈ s.re.queue, (s.window e.slot).dirty.getLsbD e.seg.val = false
  in_flight  : ∀ c ∈ s.re.copy, ∃ e ∈ s.re.queue.head?, c.index < s.segLenOf e.slot
  awaited_in : ∀ e ∈ s.re.awaited, e ∈ s.re.queue

/-! ### Ports and memory port (chapters 5 and 6) -/

/-- The laws of the ports: at most 4 requests, and an offer held off only while there are 4 (R78); a request in service
is in the queue (R80); only the host port parks, on a write (R80, R64); an awaited entry has a parked write waiting on
it (R59). -/
structure PortsLawful (s : State) : Prop where
  hp_len       : s.hp.queue.length ≤ 4
  cp_len       : s.cp.queue.length ≤ 4
  hp_held_off  : s.hp.offers ≠ [] → s.hp.queue.length = 4
  cp_held_off  : s.cp.offers ≠ [] → s.cp.queue.length = 4
  hp_busy      : s.hp.service ≠ .idle → s.hp.queue ≠ []
  cp_busy      : s.cp.service ≠ .idle → s.cp.queue ≠ []
  cp_no_park   : s.cp.service ≠ .parked
  park_write   : s.hp.service = .parked → ∃ r ∈ s.hp.queue.head?, opIsWrite r.op = true
  awaited_park : s.re.awaited.isSome = true → s.hp.service = .parked

/-- A port is in AWAITING (R80). -/
def Port.isAwaiting (q : Port) : Bool :=
  match q.service with
  | .awaiting _ => true
  | _           => false

/-- The resync engine has a granted access, of its in-flight entry or orphaned (R59). -/
def ResyncEngine.accessOut (re : ResyncEngine) : Bool := re.orphaned || re.copy.any (·.stage = Stage.granted)

/-- The stamp writer has a granted write, of its head record or discarded (R112). -/
def StampWriter.accessOut (sw : StampWriter) : Bool :=
  sw.discarded || (!sw.queue.isEmpty && decide (sw.stage = Stage.granted))

/-- The client of the awaiting access, if there is one. -/
def State.clientOut (s : State) : Option Client := s.mp.awaiting.map (·.access.client)

/-- The laws of the memory port: one access out, that of the client that waits for it (R99, R103); the passover count
at most 16 (R102); a clock count below its limit (R106); a timeout setting in range (R107). -/
structure MemoryLawful (s : State) : Prop where
  hp_out      : s.hp.isAwaiting = decide (s.clientOut = some .hp)
  cp_out      : s.cp.isAwaiting = decide (s.clientOut = some .cp)
  re_out      : s.re.accessOut = decide (s.clientOut = some .re)
  sw_out      : s.sw.accessOut = decide (s.clientOut = some .sw)
  re_one      : s.re.orphaned = true → ∀ c ∈ s.re.copy, c.stage = .requested
  sw_one      : s.sw.discarded = true → s.sw.stage = .requested
  passover_le : s.mp.passover ≤ 16
  clocks_lt   : ∀ a ∈ s.mp.awaiting, ∀ l ∈ a.limit, a.clocks < l
  timeout_in  : ∀ k ∈ s.mp.timeout, 4 ≤ k ∧ k ≤ 15

/-! ### Stamp queue (chapter 7) -/

/-- The laws of the stamp queue: at most one record per slot (R113); records only of windows in service (R9); a window
that is not FAULTED and has a record queued holds a resync entry (R113); no record of a window whose copy's access is
out (R113: the resync engine is granted nothing until the stamp queue is empty); late counts of a byte (R112). -/
structure StampsLawful (s : State) : Prop where
  one_each   : (s.sw.queue.map (·.slot)).Nodup
  in_service : ∀ r ∈ s.sw.queue, (s.window r.slot).life.inService = true
  has_entry  : ∀ r ∈ s.sw.queue, (s.window r.slot).life ≠ .faulted → s.re.holds r.slot = true
  not_copied : ∀ c ∈ s.re.copy, c.stage = .granted → ∀ e ∈ s.re.queue.head?, ∀ r ∈ s.sw.queue, r.slot ≠ e.slot
  late_le    : ∀ r ∈ s.sw.queue, r.lateCount ≤ 255

/-! ### Boundary unit (chapter 8) -/

/-- The laws of the period timer (R124). -/
structure PeriodTimer.Lawful (pt : PeriodTimer) : Prop where
  period_pos   : 1 ≤ pt.period
  period_le    : pt.period ≤ 65535
  count_le     : pt.count ≤ pt.period
  prescale_lt  : pt.prescale < 2 ^ pt.exponent
  exponent_le  : pt.exponent ≤ 7
  pending_in   : ∀ p ∈ pt.pendingPeriod, 1 ≤ p ∧ p ≤ 65535
  stopped      : pt.running = false → pt.count = 0 ∧ pt.direction = .up ∧ pt.prescale = 0 ∧ pt.pendingPeriod = none
  saw_up       : pt.mode = .saw → pt.direction = .up
  tri_up_lt    : pt.mode = .tri → pt.direction = .up → pt.count < pt.period
  down_pos     : pt.direction = .down → 1 ≤ pt.count

/-- The laws of a line filter (R132, R143). -/
structure Filter.Lawful (f : Filter) : Prop where
  prescale_lt : f.prescale < 2 ^ f.exponent
  exponent_le : f.exponent ≤ 7
  depth_in    : f.depth = 1 ∨ f.depth = 4 ∨ f.depth = 8 ∨ f.depth = 16
  run_lt      : f.run < f.depth

/-- The laws of the watch (R135, R136). -/
structure Watch.Lawful (w : Watch) : Prop where
  min_pos     : 1 ≤ w.min
  min_lt_max  : w.min < w.max
  max_le      : w.max ≤ 65535
  count_lt    : w.count < w.max
  exponent_le : w.exponent ≤ 7
  prescale_lt : w.prescale < 2 ^ w.exponent
  history_len : w.history.length ≤ 8
  history_in  : ∀ i ∈ w.history, w.min ≤ i ∧ i < w.max
  resting     : w.counting = false → w.count = 0 ∧ w.prescale = 0
  first_empty : w.first = true → w.history = []

/-- The laws of the boundary unit and of the trip filter. -/
structure BoundaryLawful (s : State) : Prop where
  timer : s.bu.pt.Lawful
  line  : s.bu.line.Lawful
  watch : s.bu.watch.Lawful
  trip  : s.tu.filter.Lawful

/-! ### Trip unit (chapter 9) and attention unit (chapter 10) -/

/-- The ties between the trip state and the view table (R143). -/
structure ViewsLawful (s : State) : Prop where
  unguarded : ∀ k, (s.window k).guarded = false → s.tu.entry k = .initial
  normal    : s.tu.state = .normal → s.tu.reason = none ∧ ∀ k, s.tu.entry k = .initial
  tripped   : s.tu.state = .tripped → s.tu.reason.isSome = true ∧ (∀ k, (s.tu.entry k).restorePending = false) ∧
    ∀ k, (s.window k).guarded = true → (s.tu.entry k).view = .safe
  restoring : s.tu.state = .restoring → s.tu.reason.isSome = true ∧
    (∀ k, (s.tu.entry k).restorePending = true ↔ (s.tu.entry k).view = .safe) ∧
    ∃ k, (s.tu.entry k).restorePending = true

/-- The fault list holds at most 4 records (R156). -/
def FaultsLawful (s : State) : Prop := s.au.faults.length ≤ 4

/-! ### All of them -/

/-- The laws of the whole bridge. -/
structure State.Lawful (s : State) : Prop where
  windows  : WindowsLawful s
  overlap  : NoOverlap s
  queue    : QueueLawful s
  ports    : PortsLawful s
  memory   : MemoryLawful s
  stamps   : StampsLawful s
  boundary : BoundaryLawful s
  views    : ViewsLawful s
  faults   : FaultsLawful s

/-- A predicate every step keeps. -/
def Kept (P : State → Prop) : Prop := ∀ s s', P s → step s = .next s' → P s'

/-! ### Terms the statements use -/

/-- The state after a command of the link is answered with a status and data, nothing else changed (R167, R168). -/
def State.answered (s : State) (c : Instr) (status : Byte) (data : List Byte) : State :=
  { s with ml := { frame := .none, rx := frameBits c,
                   response := { status := status, echo := ((encodeFrame c).getD []).headD 0xFF#8, data := data },
                   sdo := s.ml.response.shifted (frameBits c).length } }

/-- The state a run of commands ends in, each taken by exec; none when one of them stops. -/
def runCommands : List Instr → State → Option State
  | [], s      => some s
  | c :: cs, s =>
    match exec c s with
    | .next t    => runCommands cs t
    | .fault _   => none
    | .refused _ => none

/-- A number in `count` bytes, high byte first (R173). -/
def highFirst (count n : Nat) : List Byte :=
  (List.range count).map fun i => BitVec.ofNat 8 (n / 256 ^ (count - 1 - i))

/-- A row of the command table: its code, the fewest and the most operand bytes, and the data bytes of DONE. -/
structure CommandRow where
  code   : Byte
  fewest : Nat
  most   : Nat
  data   : Nat
deriving DecidableEq, Repr

/-- The command table of section 11.5.1. -/
def commandTable : List CommandRow :=
  [⟨0x00#8, 0, 32, 0⟩, ⟨0x01#8, 0, 0, 10⟩, ⟨0x10#8, 25, 25, 0⟩, ⟨0x11#8, 1, 1, 0⟩, ⟨0x12#8, 1, 1, 0⟩,
   ⟨0x13#8, 1, 1, 0⟩, ⟨0x14#8, 1, 1, 0⟩, ⟨0x15#8, 1, 1, 0⟩, ⟨0x16#8, 1, 1, 0⟩, ⟨0x17#8, 1, 1, 12⟩,
   ⟨0x20#8, 5, 5, 0⟩, ⟨0x21#8, 0, 0, 0⟩, ⟨0x22#8, 0, 0, 0⟩, ⟨0x23#8, 0, 0, 12⟩, ⟨0x24#8, 1, 1, 0⟩,
   ⟨0x28#8, 2, 2, 0⟩, ⟨0x29#8, 7, 7, 0⟩, ⟨0x2A#8, 0, 0, 13⟩, ⟨0x30#8, 3, 3, 0⟩, ⟨0x31#8, 0, 0, 0⟩,
   ⟨0x32#8, 0, 0, 0⟩, ⟨0x38#8, 0, 0, 2⟩, ⟨0x39#8, 1, 1, 0⟩, ⟨0x3A#8, 1, 1, 0⟩, ⟨0x3B#8, 0, 0, 8⟩,
   ⟨0x3C#8, 0, 0, 5⟩, ⟨0x40#8, 1, 1, 0⟩, ⟨0x7F#8, 0, 0, 0⟩]

/-- The row of a command code. -/
def commandRow (code : Byte) : Option CommandRow := commandTable.find? (·.code = code)

end Sys2Proof.Machine

namespace Sys2Proof

/-- The size DEFINE's operands ask for (R2). -/
def DefineOperands.size (o : DefineOperands) : Nat := 2 ^ o.sizeExp.toNat

/-- DEFINE's safe base is marked present (section 11.5.2). -/
def DefineOperands.safePresent (o : DefineOperands) : Bool := o.flags.getLsbD 4

/-- DEFINE's stamp address is marked present (section 11.5.2). -/
def DefineOperands.stampPresent (o : DefineOperands) : Bool := o.flags.getLsbD 5

/-- A base is a multiple of the size and not above 0x3FFFFF. -/
def baseFits (size : Nat) (base : BitVec 24) : Prop := base.toNat % size = 0 ∧ base.toNat ≤ 0x3FFFFF

/-- None of the BAD_PARAM cases of R6 holds. -/
structure DefineOperands.Fits (o : DefineOperands) : Prop where
  exponent : 5 ≤ o.sizeExp.toNat ∧ o.sizeExp.toNat ≤ 14
  reserved : o.flags.getLsbD 6 = false ∧ o.flags.getLsbD 7 = false
  cadence  : o.cadence.toNat ≠ 0
  closing  : o.closing.toNat < o.size
  logical  : baseFits o.size o.logical
  bankA    : baseFits o.size o.bankA
  bankB    : baseFits o.size o.bankB
  safe     : o.safePresent = true → baseFits o.size o.safe
  stamp    : o.stampPresent = true → baseFits 2 o.stamp
  banks    : o.bankB ≠ o.bankA

/-- The requests a command offers at a port: REQUEST_ACCEPT offers one, and no other command any (R78). -/
def Instr.offersAt (c : Instr) (p : PortId) : List Request :=
  match c with
  | .requestAccept q r => if q = p then [r] else []
  | _                  => []

/-- The descriptor in DEFINE's operands, field by field (R2, section 11.5.2). -/
def DefineOperands.descriptor (o : DefineOperands) : Machine.Descriptor :=
  { sizeExp := o.sizeExp.toNat
    logicalBase := o.logical.setWidth 22
    bankABase := o.bankA.setWidth 22
    bankBBase := o.bankB.setWidth 22
    safeBase := if o.safePresent then some (o.safe.setWidth 22) else none
    fillWord := o.fill
    source := if o.flags.getLsbD 0 then .bx else .pt
    cadence := o.cadence.toNat
    closingOffset := o.closing.toNat
    singleShot := o.flags.getLsbD 1
    hostView := if o.flags.getLsbD 2 then .live else .shadow
    tripProtected := o.flags.getLsbD 3
    stampAddr := if o.stampPresent then some (o.stamp.setWidth 22) else none }

end Sys2Proof

namespace Sys2Proof.Machine

/-- Two regions share a word. -/
def Region.meets (r t : Region) : Prop :=
  ∃ n, r.base ≤ n ∧ n < r.base + r.size ∧ t.base ≤ n ∧ n < t.base + t.size

/-- A new descriptor for a slot breaks the overlap law: two of its regions share a word, or one of them shares a word
with a region of another slot that is not UNUSED (R7). -/
def State.BreaksOverlapLaw (s : State) (k : Slot) (d : Descriptor) : Prop :=
  ¬ d.claimed.Pairwise (fun r t => ¬ r.meets t) ∨
  ∃ j, j ≠ k ∧ (s.window j).life ≠ .unused ∧ ∃ e ∈ (s.window j).desc, ∃ r ∈ d.claimed, ∃ t ∈ e.claimed, r.meets t

/-- The command is answered with a failure status and no data, and nothing but the link changes (R1, R167). -/
def Refuses (c : Instr) (s : State) (status : Byte) : Prop := exec c s = .next (s.answered c status [])

/-- Every block at the full-reset values of its chapter (R20, R56, R59, R76, R80, R96, R99, R109, R112, R121, R122, R124,
R132, R135, R143, R154, R163, R168). -/
structure AtFullReset (t : State) : Prop where
  windows  : ∀ k, t.window k = { desc := none, life := .unused, live := .a, gen := 0, phase := .clean, dirty := 0,
                                 cadenceCount := 0, lateCount := 0, inbox := [] }
  resync   : t.re = { queue := [], copy := none, awaited := none, orphaned := false }
  stamps   : t.sw.queue = [] ∧ t.sw.discarded = false
  host     : t.hp = { queue := [], service := .idle, offers := [] }
  consumer : t.cp = { queue := [], service := .idle, offers := [] }
  memory   : t.mp = { awaiting := none, tag := 0, passover := 0, timeout := some 10 }
  counters : t.bu.ptSeq = 0 ∧ t.bu.bxSeq = 0
  timer    : t.bu.pt = { running := false, count := 0, direction := .up, prescale := 0, exponent := 0, mode := .saw,
                         selection := .peak, period := 1000, pendingPeriod := none }
  line     : t.bu.line = { level := .low, run := 0, prescale := 0, exponent := 0, depth := 1 }
  watch    : t.bu.watch = { enable := false, exponent := 0, min := 1, max := 65535, tripOnLost := false, count := 0,
                            prescale := 0, first := true, history := [] }
  trip     : t.tu.state = .normal ∧ t.tu.reason = none ∧ t.tu.lineTrip = false
  filter   : t.tu.filter = { level := .low, run := 0, prescale := 0, exponent := 0, depth := 4 }
  views    : ∀ k, t.tu.entry k = { view := .live, restorePending := false }
  causes   : t.au = { causes := 0, enables := 0, faults := [], refusal := none }
  response : t.ml.response = { status := 0x01#8, echo := 0xFF#8, data := [] }

/-! ### Records changed by an event, as the rules give them -/

/-- The code of a timer mode (section 11.5.1). -/
def TimerMode.code : TimerMode → Nat
  | .saw => 0
  | .tri => 1

/-- The code of a boundary selection (section 11.5.1). -/
def Selection.code : Selection → Nat
  | .peak   => 0
  | .trough => 1
  | .both   => 2

/-- The code of a boundary source (section 11.5.1). -/
def Source.code : Source → Nat
  | .pt => 0
  | .bx => 1

/-- The last eight of a list (R135). -/
def lastEight (l : List Nat) : List Nat := l.drop (l.length - 8)

/-- The stamp writer with a record joined at the tail: on an empty queue it is the head, and its write of word 1 is
requested (R113, R114). -/
def StampWriter.withRecord (sw : StampWriter) (r : StampRecord) : StampWriter :=
  { sw with queue := sw.queue ++ [r]
            step := if sw.queue = [] then .word1 else sw.step
            stage := if sw.queue = [] then .requested else sw.stage }

/-- The stamp writer when its head record has left: the next head's write of word 1 is requested (R114, R116, R117). -/
def StampWriter.withoutHead (sw : StampWriter) : StampWriter :=
  { sw with queue := sw.queue.tail, step := .word1, stage := .requested }

/-- A purge of a window's entries at the resync engine (R68). -/
structure Purged (re re' : ResyncEngine) (k : Slot) : Prop where
  queue   : re'.queue = re.queue.filter (·.slot ≠ k)
  awaited : re'.awaited = if re.awaited.any (·.slot = k) then none else re.awaited
  other   : (∀ e ∈ re.inFlight, e.slot ≠ k) → re'.copy = re.copy ∧ re'.orphaned = re.orphaned
  mine    : ∀ e ∈ re.inFlight, e.slot = k → re'.copy = none ∧
    (re'.orphaned = true ↔ re.orphaned = true ∨ ∃ c ∈ re.copy, c.stage = .granted)

/-- A window's record is removed from the stamp queue (R118). -/
structure RecordRemoved (sw sw' : StampWriter) (k : Slot) : Prop where
  queue : sw'.queue = sw.queue.filter (·.slot ≠ k)
  other : (∀ r ∈ sw.queue.head?, r.slot ≠ k) → sw'.step = sw.step ∧ sw'.stage = sw.stage ∧ sw'.discarded = sw.discarded
  head  : ∀ r ∈ sw.queue.head?, r.slot = k → sw'.step = .word1 ∧ sw'.stage = .requested ∧
    (sw'.discarded = true ↔ sw.discarded = true ∨ sw.stage = .granted)

/-- An entry of the view table becomes LIVE with no restore pending, which ends RESTORING when no restore is left
pending (R149, R151). -/
structure BackToLive (tu tu' : TripUnit) (k : Slot) : Prop where
  entries : ∀ j, tu'.entry j = if j = k then { view := .live, restorePending := false } else tu.entry j
  ends    : tu.state = .restoring → (∀ j, j ≠ k → (tu.entry j).restorePending = false) →
    tu'.state = .normal ∧ tu'.reason = none
  stays   : (tu.state = .restoring → ∃ j, j ≠ k ∧ (tu.entry j).restorePending = true) →
    tu'.state = tu.state ∧ tu'.reason = tu.reason
  line    : tu'.lineTrip = tu.lineTrip ∧ tu'.filter = tu.filter

/-- A host or consumer write that waits for its grant names a word of an entry's segment, in either bank (R26). -/
def State.WaitingWriteInto (s : State) (e : Entry) : Prop :=
  ∃ d ∈ (s.window e.slot).desc, ∃ q ∈ [s.hp, s.cp], ∃ t r, q.service = .requesting t ∧ q.queue.head? = some r ∧
    opIsWrite r.op = true ∧ ∃ bank, ∃ i, i < d.segLen ∧ t.addr = wordAt (d.bankBase bank) (e.seg.val * d.segLen + i)

/-- The host port is about to translate its head request: idle at HOST_TAKE_IN_SERVICE, or with a released parked write
at PARKED_WRITE_TRANSLATE_AFRESH (R66, R81). -/
def State.HostTranslates (s : State) (c : Instr) (r : Request) : Prop :=
  s.hp.queue.head? = some r ∧ opNoLane r.op = false ∧
    ((c = .hostTakeInService ∧ s.hp.service = .idle) ∨
     (c = .parkedWriteTranslateAfresh ∧ s.hp.service = .parked ∧ s.re.awaited = none))

/-- The state after a port's translation gave an address (R81). -/
def State.asking (s : State) (p : PortId) (addr : Addr) (slot : Option Slot) (staged : Bool) : State :=
  s.setPort p { s.port p with service := .requesting { addr := addr, slot := slot, staged := staged } }

/-- A port whose head request has left: IDLE, and of the offers held off as many accepted, oldest first, as the queue has
room for (R78, R79, R82; notes/assumptions/7.md). -/
def Port.served (q : Port) : Port :=
  { queue := q.queue.tail ++ q.offers.take (4 - q.queue.tail.length)
    service := .idle
    offers := q.offers.drop (4 - q.queue.tail.length) }

/-- The state after a port refused its head request (R79, R91, R162): the reason code in the response's bits 7..0. -/
def State.refused (s : State) (p : PortId) (a : Addr) (reason : Reason) : State :=
  { s.setPort p (s.port p).served with
    out := s.out.respond p [{ code := .refused, data := reason.code.setWidth 32 }]
    au := { s.au with causes := s.au.causes ||| 0x80#8, refusal := some { port := p, addr := a, reason := reason } } }

/-- The state after a port answered its head request OK (R79). -/
def State.servedOk (s : State) (p : PortId) (data : Word) : State :=
  { s.setPort p (s.port p).served with
    out := s.out.respond p [{ code := .ok, data := data }] }

/-- The state after a port answered its head request FAULT (R95). -/
def State.servedFault (s : State) (p : PortId) : State :=
  { s.setPort p (s.port p).served with
    out := s.out.respond p [{ code := .fault, data := 0 }] }

/-- The responses a port has given (R79; the model's record of notes/assumptions/13.md). -/
def State.given (s : State) : PortId → List PortResponse
  | .host     => s.out.host
  | .consumer => s.out.consumer

/-- An event at a port (R78, R79): each response it gives answers the request at the head, which leaves; the accepted
requests left stay so, in order; the offers held off, and after them the new ones, stand behind them, none lost; and
none is left held off while the queue has room. -/
structure PortMoves (s t : State) (p : PortId) (offered : List Request) : Prop where
  answered : ∃ given, t.given p = s.given p ++ given ∧ given.length ≤ (s.port p).queue.length ∧
    (t.port p).queue ++ (t.port p).offers = (s.port p).queue.drop given.length ++ (s.port p).offers ++ offered ∧
    (s.port p).queue.drop given.length <+: (t.port p).queue
  no_room  : ((s.port p).offers ≠ [] → 4 ≤ (s.port p).queue.length) →
    (t.port p).offers ≠ [] → 4 ≤ (t.port p).queue.length

/-- Word 0 of a stamp record, bit by bit (section 11.5.5). -/
structure StampRecord.IsWord0 (r : StampRecord) (word : Word) : Prop where
  generation : word.extractLsb' 0 16 = r.gen
  live_bank  : word.getLsbD 16 = decide (r.live = .b)
  late_count : (word.extractLsb' 17 8).toNat = r.lateCount
  held_flag  : word.getLsbD 25 = r.held
  enable     : word.getLsbD 26 = r.enable
  zero       : word.extractLsb' 27 5 = 0

/-- A watch step of a counting watch: the count rises, or returns to 0 at MAX (R136). -/
def Watch.afterStep (w : Watch) : Watch :=
  if w.count + 1 < w.max then { w with count := w.count + 1, prescale := 0 } else { w with count := 0, prescale := 0 }

/-- The watch when it has judged a BX edge, row by row (R137). -/
def Watch.afterEdge (w : Watch) : Watch :=
  match w.enable, w.first with
  | false, _     => w
  | true, true   => { w with count := 0, prescale := 0, first := false }
  | true, false  =>
    if w.count < w.min then w
    else { w with count := 0, prescale := 0, history := lastEight (w.history ++ [w.count]) }

/-- A port asks for the access of its head request, as translation gave it, exactly in REQUESTING (R81, R100). -/
def Port.Asks (q : Port) (c : Client) (a : Access) : Prop :=
  ∃ t r, q.service = .requesting t ∧ q.queue.head? = some r ∧
    a = { client := c, op := r.op, addr := t.addr, slot := t.slot }

/-- The stamp writer asks for the write of its head record's word exactly while that write is requested (R100, R114,
R115). -/
def StampWriter.Asks (sw : StampWriter) (a : Access) : Prop :=
  ∃ r, sw.queue.head? = some r ∧ sw.stage = .requested ∧ a = match sw.step with
    | .word1 => { client := .sw, op := .write 0xF#4 r.seq, addr := r.stampAddr + 1, slot := some r.slot }
    | .word0 => { client := .sw, op := .write 0xF#4 r.word0, addr := r.stampAddr, slot := some r.slot }

/-- The resync engine asks for the read or the write of the in-flight entry's word exactly while that access is requested
(R61, R100). -/
def State.ResyncAsks (s : State) (a : Access) : Prop :=
  ∃ c e d, s.re.copy = some c ∧ s.re.queue.head? = some e ∧ (s.window e.slot).desc = some d ∧ c.stage = .requested ∧
    a = match c.step with
      | .read       => {
          client := .re, op := .read, slot := some e.slot,
          addr := d.bankBase (s.window e.slot).live + BitVec.ofNat 22 (e.seg.val * d.segLen + c.index) }
      | .write word => {
          client := .re, op := .write 0xF#4 word, slot := some e.slot,
          addr := d.bankBase (s.window e.slot).live.other + BitVec.ofNat 22 (e.seg.val * d.segLen + c.index) }

/-- The awaiting access has ended: the memory port is free (R104, R106). -/
def State.freed (s : State) : State := { s with mp := { s.mp with awaiting := none } }

/-- The attention unit after it takes a fault record (R160). -/
def AttentionUnit.withFault (au : AttentionUnit) (r : FaultRecord) : AttentionUnit :=
  if au.faults.length < 4 then { au with faults := au.faults ++ [r], causes := au.causes ||| 0x20#8 }
  else { au with causes := au.causes ||| 0x40#8 }

/-- The fault record of a failed access (R108). -/
def AwaitingAccess.failure (a : AwaitingAccess) (kind : FaultKind) : FaultRecord :=
  { origin := a.access.client, kind := kind, isWrite := opIsWrite a.access.op, addr := a.access.addr,
    slot := a.access.slot }

/-- A failure of the awaiting access: a FAULT answer with its tag, or its timeout when it has a limit (R104, R106). -/
def AwaitingAccess.FailsBy (a : AwaitingAccess) (c : Instr) (kind : FaultKind) : Prop :=
  (c = .memoryAnswer a.tag .fault ∧ kind = .fault) ∨ (c = .accessTimeout ∧ a.limit.isSome = true ∧ kind = .timeout)

/-! ### The parts of a bridge clock (notes/assumptions/2.md) -/

/-- An event due on the clock is taken whole, as its command takes it; otherwise its count alone has risen. -/
def ClockPart (due : Prop) (c : Instr) (counted s t : State) : Prop :=
  (due → exec c s = .next t) ∧ (¬ due → t = counted)

/-- The clock at the memory port: the awaiting access times out at its limit (R106). -/
def State.MemoryClock (s t : State) : Prop :=
  ClockPart (∃ a ∈ s.mp.awaiting, ∃ l ∈ a.limit, l ≤ a.clocks + 1) .accessTimeout
    { s with mp := { s.mp with awaiting := s.mp.awaiting.map fun a => { a with clocks := a.clocks + 1 } } } s t

/-- The clock at the period timer: a running one takes a count step at 2^e (R125). -/
def State.TimerClock (s t : State) : Prop :=
  (s.bu.pt.running = false → t = s) ∧
  (s.bu.pt.running = true → ClockPart (2 ^ s.bu.pt.exponent ≤ s.bu.pt.prescale + 1) .ptCountStep
    { s with bu := { s.bu with pt := { s.bu.pt with prescale := s.bu.pt.prescale + 1 } } } s t)

/-- The clock at the boundary line filter: a sample of BND at 2^e (R132). -/
def State.LineClock (s t : State) : Prop :=
  ClockPart (2 ^ s.bu.line.exponent ≤ s.bu.line.prescale + 1) (.lineSample s.pins.bnd)
    { s with bu := { s.bu with line := { s.bu.line with prescale := s.bu.line.prescale + 1 } } } s t

/-- The clock at the trip filter: a sample of TRP at 2^e (R144). -/
def State.TripClock (s t : State) : Prop :=
  ClockPart (2 ^ s.tu.filter.exponent ≤ s.tu.filter.prescale + 1) (.tripSample s.pins.trp)
    { s with tu := { s.tu with filter := { s.tu.filter with prescale := s.tu.filter.prescale + 1 } } } s t

/-- A watch step is due: the watch counts, and its prescale count reaches 2^e (R136). -/
def State.WatchStepDue (s : State) : Prop :=
  s.bu.watch.enable = true ∧ s.bu.watch.first = false ∧ 2 ^ s.bu.watch.exponent ≤ s.bu.watch.prescale + 1

/-- The clock at the watch: one that counts takes a watch step at 2^e (R136). -/
def State.WatchClock (s t : State) : Prop :=
  (s.bu.watch.enable = false ∨ s.bu.watch.first = true → t = s) ∧
  (s.bu.watch.enable = true → s.bu.watch.first = false → ClockPart s.WatchStepDue .watchStep
    { s with bu := { s.bu with watch := { s.bu.watch with prescale := s.bu.watch.prescale + 1 } } } s t)

/-- The clock's sample of BND makes a BX edge: the filtered level rises (R132, R134). -/
def State.EdgeDue (s : State) : Prop :=
  2 ^ s.bu.line.exponent ≤ s.bu.line.prescale + 1 ∧ s.bu.line.level = .low ∧ s.pins.bnd = .high ∧
    s.bu.line.depth ≤ s.bu.line.run + 1

/-- The clock at the watch and the line filter. A watch step due with a sample may come after it, unless an accepted edge
has restarted the count, when the step is not taken (R138; notes/assumptions/3.md). -/
def State.LineAndWatchClock (s t : State) : Prop :=
  (∃ u, s.WatchClock u ∧ u.LineClock t) ∨
  (s.WatchStepDue ∧ ∃ u, s.LineClock u ∧
    (s.EdgeDue ∧ s.bu.watch.min ≤ s.bu.watch.count → t = u) ∧
    (¬ (s.EdgeDue ∧ s.bu.watch.min ≤ s.bu.watch.count) → u.WatchClock t))

/-- One bridge clock, part after part: the memory port, the period timer, and then the trip filter before or after the
line filter and the watch (R153; notes/assumptions/3.md). A free value is drawn for the open orders. -/
def State.OneClock (s t : State) : Prop :=
  ∃ m p, ({ s with choices := s.choices + 1 } : State).MemoryClock m ∧ m.TimerClock p ∧
    ∃ u, (p.TripClock u ∧ u.LineAndWatchClock t) ∨ (p.LineAndWatchClock u ∧ u.TripClock t)

end Sys2Proof.Machine
end

