-- ==== Sys2Proof/WellFormed.lean ====
section
/-! DEFINITION. Which commands are well formed. The operands of the table's rows are raw, so that nearly every value
is an event that can happen; two are not: a NOP with more padding than a NOP frame holds (R169; such a frame is a
FRAME_NOT_TAKEN), and a FRAME_NOT_TAKEN whose frame passes every check of R166 (such a frame is taken, as its command). -/
namespace Sys2Proof

/-- A NOP takes 0 to 32 padding bytes (R169). -/
def paddingFits (padding : List Byte) : Bool := padding.length ≤ Config.maxPadding

/-- The frame fails one of the checks of R166. -/
def frameFails (bits : List Bool) : Bool :=
  match judgeFrame bits with
  | .error _ => true
  | .ok _    => false

/-- A command that can happen as its row says. -/
def Instr.wellFormed : Instr → Bool
  | .nop padding        => paddingFits padding
  | .frameNotTaken bits => frameFails bits
  | .fullReset _ | .queryDevice | .define _ | .enable _ | .disable _ | .clear _ | .hold _ | .release _ | .abort _
  | .queryWindow _ | .ptSet _ _ _ _ | .ptStart | .ptStop | .ptQuery | .forceBoundary _ | .lineSet _ _
  | .watchSet _ _ _ _ _ | .watchQuery | .tripSet _ _ _ | .tripNow | .tripRelease | .readCauses | .clearCauses _
  | .setMask _ | .readFault | .readRefusal | .memorySet _ | .softReset | .requestAccept _ _ | .hostTakeInService
  | .consumerTakeInService | .parkedWriteTranslateAfresh | .memoryGrant | .memoryAnswer _ _ | .accessTimeout
  | .resyncTakeInFlight | .ptCountStep | .lineSample _ | .watchStep | .tripSample _ | .windowTakeBoundary _
  | .csnFall | .discardedFrame => true

end Sys2Proof
end

