-- ==== Sys2Proof/Certificates/Slice0/Obligations.lean ====
section
/-! DEFINITION. The statements for the provers, chapter by chapter. A hypothesis `s.ml.frame ≠ .discarding` says that the
frame under way did not fall before or during a full reset (R171). -/

section

open Sys2Proof Sys2Proof.Machine

/-! ### The machine -/

/-- A step takes the command at the front of the queue and runs it with the queue's rest (notes/assumptions/1.md). -/
def Obligations.StepRunsFrontCommand : Prop :=
  ∀ (c : Instr) (rest : List Instr) (s : State), step { s with pending := c :: rest } = exec c { s with pending := rest }

/-- Every command completes in every state, and touches neither the queue of commands nor the counter of free values.
That an event whose condition does not hold completes too is the model's reading (notes/assumptions/5.md). -/
def Obligations.EveryCommandCompletes : Prop :=
  ∀ (c : Instr) (s : State), ∃ t, exec c s = .next t ∧ t.pending = s.pending ∧ t.choices = s.choices

/-- On an empty queue one bridge clock passes. Each event due on it is taken whole, as its command takes it: the
access's timeout, the count step of the running timer, the samples of both line filters, the watch step of a counting
watch; so an idle clock delivers its boundaries to the windows, raises its causes, takes its trips and faults the
window of a resync access that times out. Nothing else changes but the counts that rise. Said of each record: the
prescale counts of the running timer and of both line filters rise, or return to 0 with a count step or a sample; that
of a counting watch rises, or returns to 0 with a watch step, and the watch judges a BX edge of the clock's sample,
before or after the step; the awaiting access's clock count rises, and at its limit the access times out with its
fault record. The ports, the engine, the stamp writer and the records of outputs are left as they are, offers held off
among them, or as ACCESS_TIMEOUT leaves them (R16, R106, R122, R125, R126, R127, R132, R134, R136, R137, R138, R144,
R146, R147, R160). The clock is the model's choice of notes/assumptions/2.md, the open order of edge and step 3.md,
and the offers accepted when a timeout's request leaves 7.md. -/
def Obligations.IdleStepIsOneBridgeClock : Prop :=
  ∀ s : State, s.pending = [] → ∃ t, step s = .next t ∧ s.OneClock t ∧
    t.ml = s.ml ∧ t.pins = s.pins ∧ t.pending = [] ∧ t.choices = s.choices + 1 ∧ t.au.enables = s.au.enables ∧
    t.au.refusal = s.au.refusal ∧
    t.bu.ptSeq = (if s.bu.pt.running = true ∧ 2 ^ s.bu.pt.exponent ≤ s.bu.pt.prescale + 1 ∧ s.bu.pt.step.2 = true then
        s.bu.ptSeq + 1
      else s.bu.ptSeq) ∧
    (t.bu.bxSeq = s.bu.bxSeq ∨ s.EdgeDue ∧ t.bu.bxSeq = s.bu.bxSeq + 1) ∧
    t.bu.pt = (if s.bu.pt.running = true then
        if s.bu.pt.prescale + 1 < 2 ^ s.bu.pt.exponent then { s.bu.pt with prescale := s.bu.pt.prescale + 1 }
        else s.bu.pt.step.1
      else s.bu.pt) ∧
    t.bu.line = (if s.bu.line.prescale + 1 < 2 ^ s.bu.line.exponent then
        { s.bu.line with prescale := s.bu.line.prescale + 1 }
      else s.bu.line.sample s.pins.bnd) ∧
    t.tu.filter = (if s.tu.filter.prescale + 1 < 2 ^ s.tu.filter.exponent then
        { s.tu.filter with prescale := s.tu.filter.prescale + 1 }
      else s.tu.filter.sample s.pins.trp) ∧
    (let w := s.bu.watch
     let judged := fun v : Watch => if 2 ^ s.bu.line.exponent ≤ s.bu.line.prescale + 1 ∧ s.bu.line.level = .low ∧
       s.pins.bnd = .high ∧ s.bu.line.depth ≤ s.bu.line.run + 1 then v.afterEdge else v
     (w.enable = false ∨ w.first = true → t.bu.watch = judged w) ∧
     (w.enable = true → w.first = false →
       (w.prescale + 1 < 2 ^ w.exponent → t.bu.watch = judged { w with prescale := w.prescale + 1 }) ∧
       (2 ^ w.exponent ≤ w.prescale + 1 → t.bu.watch = judged w.afterStep ∨
         s.EdgeDue ∧ t.bu.watch = if w.count < w.min then w.afterStep else w.afterEdge))) ∧
    (let kept := t.hp = s.hp ∧ t.cp = s.cp ∧ t.re = s.re ∧ t.sw = s.sw ∧ t.out = s.out
     (s.mp.awaiting = none → t.mp = s.mp ∧ kept) ∧
     ∀ a, s.mp.awaiting = some a →
      ((∀ l ∈ a.limit, a.clocks + 1 < l) → t.mp = { s.mp with awaiting := some { a with clocks := a.clocks + 1 } } ∧
        t.au.faults = s.au.faults ∧ kept) ∧
      (∀ l ∈ a.limit, l ≤ a.clocks + 1 → t.mp = { s.mp with awaiting := none } ∧
        t.au.faults = (s.au.withFault (a.failure .timeout)).faults ∧
        ∃ u, exec .accessTimeout s = .next u ∧ t.hp = u.hp ∧ t.cp = u.cp ∧ t.re = u.re ∧ t.sw = u.sw ∧ t.out = u.out))

/-! ### The management link (chapter 11) -/

/-- The frame of every well-formed command, judged at the CSn rise, is that command again: no operand bit is lost. -/
def Obligations.FramesReadBackAsTheirCommands : Prop :=
  ∀ (c : Instr) (frame : List Byte), c.wellFormed = true → encodeFrame c = some frame →
    judgeFrame (bytesBits frame) = .ok c

/-- A frame that passes every check is, bit for bit, the frame of the command it is taken as. -/
def Obligations.PassingFramesAreTheirCommandsFrames : Prop :=
  ∀ (bits : List Bool) (c : Instr), judgeFrame bits = .ok c →
    c.wellFormed = true ∧ ∃ frame, encodeFrame c = some frame ∧ bits = bytesBits frame

/-- A frame of whole bytes B and left-over bits L is judged in the order of R166; one that fails changes only the link,
whose response holds the failure status and the echo; one that passes is taken as its command. That FRAME_NOT_TAKEN
carries a passing frame too is the model's reading (notes/assumptions/17.md). -/
def Obligations.FrameIsJudgedInOrder : Prop :=
  ∀ (s : State) (B : List Byte) (L : List Bool), s.ml.frame ≠ .discarding → L.length < 8 →
    let bits := bytesBits B ++ L
    let notTaken := fun status : Byte => exec (.frameNotTaken bits) s = .next { s with
      ml := { frame := .none, rx := bits, response := { status := status, echo := B.headD 0xFF#8, data := [] },
              sdo := s.ml.response.shifted bits.length } }
    if L ≠ [] ∨ B.length < 2 then notTaken 0x11#8
    else if B.getLast? ≠ some (~~~ B.dropLast.foldl (· ^^^ ·) 0#8) then notTaken 0x10#8
    else match commandRow (B.headD 0#8) with
      | none     => notTaken 0x12#8
      | some row =>
        if 2 + row.fewest ≤ B.length ∧ B.length ≤ 2 + row.most then
          ∃ c, encodeFrame c = some B ∧ exec (.frameNotTaken bits) s = exec c s
        else notTaken 0x11#8

/-- At the end of every command's frame: the held response has gone out bit by bit, then ones; the buffer holds the new
response, with the command code as its echo and, with DONE alone, the data bytes the table gives; SOFT RESET leaves the
IDLE response (R167, R168, section 11.5.1). -/
def Obligations.ResponseGoesOutUnderTheNextFrame : Prop :=
  ∀ (c : Instr) (frame : List Byte) (s : State), encodeFrame c = some frame → s.ml.frame ≠ .discarding →
    ∃ t, exec c s = .next t ∧ t.ml.frame = .none ∧ t.ml.rx = bytesBits frame ∧
      t.ml.sdo = (bytesBits s.ml.response.bytes ++ List.replicate (8 * frame.length) true).take (8 * frame.length) ∧
      (c = .softReset → t.ml.response = { status := 0x01#8, echo := 0xFF#8, data := [] }) ∧
      (c ≠ .softReset → t.ml.response.echo = frame.headD 0xFF#8 ∧
        ∀ row, commandRow (frame.headD 0xFF#8) = some row →
          t.ml.response.data.length = if t.ml.response.status = 0x00#8 then row.data else 0)

/-- At the CSn rise of a frame that fell before or during a full reset, whatever its bits, nothing is taken and the
response is kept; a fall of CSn clears the receive frame and begins a new one; with no such frame DISCARDED_FRAME
changes nothing (R165, R171; the records as notes/assumptions/10.md and 11.md choose). -/
def Obligations.FramesCutByAResetAreDiscarded : Prop :=
  ∀ (s : State),
    (s.ml.frame = .discarding → ∀ c, ((encodeFrame c).isSome = true ∨ (∃ bits, c = .frameNotTaken bits) ∨
        c = .discardedFrame) →
      exec c s = .next { s with ml := { s.ml with frame := .none, rx := [], sdo := [] } }) ∧
    (s.ml.frame ≠ .discarding → exec .discardedFrame s = .next s) ∧
    exec .csnFall s = .next { s with ml := { s.ml with frame := .receiving, rx := [], sdo := [] } }

/-- A full reset, and power-up, leave every block at its full-reset values; the frame under way will be discarded when
CSn is low at the rise of RSTn; the first frame that falls afterwards shifts out the IDLE response (R168, R171). What
lies outside the blocks is kept, as notes/assumptions/8.md and 13.md choose; that no offer is left held off at a port
is 7.md, and that no boundary is left waiting at a window 14.md. -/
def Obligations.FullResetRestoresEveryBlock : Prop :=
  AtFullReset State.reset ∧
  ∀ (s : State) (csnLow : Bool), ∃ t, exec (.fullReset csnLow) s = .next t ∧ AtFullReset t ∧
    t.ml.frame = (if csnLow then .discarding else .none) ∧ t.out = s.out ∧ t.pins = s.pins ∧
    ∀ (c : Instr) (frame : List Byte), encodeFrame c = some frame →
      ∃ t' u, exec .csnFall t = .next t' ∧ exec c t' = .next u ∧
        u.ml.sdo = (bytesBits [0x01#8, 0xFF#8, 0x01#8] ++ List.replicate (8 * frame.length) true).take (8 * frame.length)

/-- SOFT RESET: every block takes its part in the one event of the CSn rise (R172 and the rule of each block). The offers
held off at a port are accepted into its emptied queue behind the ABORTED responses, as notes/assumptions/7.md chooses;
the record of responses is 13.md, and the waiting boundaries that are gone those of the inbox of 14.md. -/
def Obligations.SoftResetTakesEveryBlocksPart : Prop :=
  ∀ s : State, s.ml.frame ≠ .discarding → ∃ t, exec .softReset s = .next t ∧
    (∀ k, t.window k = if (s.window k).life = .unused then s.window k else
      { s.window k with life := .defined, phase := .clean, dirty := 0, cadenceCount := 0, lateCount := 0, inbox := [] }) ∧
    t.re = { queue := [], copy := none, awaited := none, orphaned := false } ∧
    t.sw.queue = [] ∧ t.sw.discarded = false ∧
    t.hp = { queue := s.hp.offers.take 4, service := .idle, offers := s.hp.offers.drop 4 } ∧
    t.cp = { queue := s.cp.offers.take 4, service := .idle, offers := s.cp.offers.drop 4 } ∧
    t.out = { s.out with
      host := s.out.host ++ s.hp.queue.map (fun _ => { code := .aborted, data := 0 })
      consumer := s.out.consumer ++ s.cp.queue.map (fun _ => { code := .aborted, data := 0 }) } ∧
    t.mp = { s.mp with awaiting := none, passover := 0 } ∧
    t.bu = { s.bu with
      pt := { s.bu.pt with running := false, count := 0, direction := .up, prescale := 0,
                           period := s.bu.pt.pendingPeriod.getD s.bu.pt.period, pendingPeriod := none }
      line := { s.bu.line with level := .low, run := 0, prescale := 0 }
      watch := { s.bu.watch with count := 0, prescale := 0, first := true, history := [] } } ∧
    t.tu.state = .normal ∧ t.tu.reason = none ∧ t.tu.lineTrip = s.tu.lineTrip ∧
    t.tu.filter = { s.tu.filter with level := .low, run := 0, prescale := 0 } ∧
    (∀ k, t.tu.entry k = { view := .live, restorePending := false }) ∧
    t.au = { s.au with causes := 0, faults := [], refusal := none } ∧
    t.ml.response = { status := 0x01#8, echo := 0xFF#8, data := [] } ∧ t.pins = s.pins

/-- NOP takes 0 to 32 padding bytes, changes no state and answers 0x00, 0x00, 0xFF; longer padding answers BAD_LENGTH
(R169). -/
def Obligations.NopChangesOnlyTheLink : Prop :=
  ∀ (s : State) (padding : List Byte), s.ml.frame ≠ .discarding →
    (padding.length ≤ 32 → ∃ t, exec (.nop padding) s = .next t ∧ t = s.answered (.nop padding) 0x00#8 [] ∧
      t.ml.response.bytes = [0x00#8, 0x00#8, 0xFF#8]) ∧
    (32 < padding.length → exec (.nop padding) s = .next (s.answered (.nop padding) 0x11#8 []))

/-- QUERY DEVICE, QUERY WINDOW, PT QUERY, WATCH QUERY, READ CAUSES and READ REFUSAL answer the state as it stands,
laid out as section 11.5.3 gives it, and change nothing but the link (R19, R131, R140, R159, R162, R170). -/
def Obligations.QueriesReportAndChangeNothing : Prop :=
  ∀ s : State, s.ml.frame ≠ .discarding →
    exec .queryDevice s = .next (s.answered .queryDevice 0x00#8
      ([s.tu.state.code, tripReasonCode s.tu.reason] ++ highFirst 2 s.re.queue.length
        ++ (match s.re.copy, s.re.queue with
            | some _, e :: _ => highFirst 1 e.slot.val ++ highFirst 1 e.seg.val
            | _, _           => [0xFF#8, 0xFF#8])
        ++ highFirst 1 s.sw.queue.length ++ highFirst 1 s.hp.queue.length ++ highFirst 1 s.cp.queue.length
        ++ [if s.hp.service = .parked then 1#8 else 0#8])) ∧
    (∀ (slot : Byte) (k : Slot), slot.toNat = k.val → ∃ flags : Byte,
      exec (.queryWindow slot) s = .next (s.answered (.queryWindow slot) 0x00#8
        ([(s.window k).life.code, (s.window k).phase.code, flags] ++ highFirst 2 (s.window k).gen.toNat
          ++ highFirst 4 (s.window k).dirty.toNat ++ highFirst 1 (s.re.queue.filter (·.slot = k)).length
          ++ highFirst 1 (s.window k).cadenceCount ++ highFirst 1 (s.window k).lateCount)) ∧
      (flags.getLsbD 0 = true ↔ (s.window k).live = .b) ∧ (flags.getLsbD 1 = true ↔ (s.tu.entry k).view = .safe) ∧
      (flags.getLsbD 2 = true ↔ (s.tu.entry k).restorePending = true) ∧
      (flags.getLsbD 3 = true ↔ ∃ e ∈ s.re.awaited, e.slot = k) ∧ flags.toNat < 16) ∧
    exec .ptQuery s = .next (s.answered .ptQuery 0x00#8
      ([if s.bu.pt.running then 1#8 else 0#8] ++ highFirst 2 s.bu.pt.count
        ++ [if s.bu.pt.direction = .up then 0#8 else 1#8] ++ highFirst 2 s.bu.pt.period
        ++ highFirst 2 (s.bu.pt.pendingPeriod.getD 0) ++ highFirst 4 s.bu.ptSeq.toNat)) ∧
    exec .watchQuery s = .next (s.answered .watchQuery 0x00#8
      ([if s.bu.watch.enable then 1#8 else 0#8, if s.bu.watch.first then 1#8 else 0#8]
        ++ highFirst 2 s.bu.watch.count ++ highFirst 2 (s.bu.watch.history.getLast?.getD 0)
        ++ highFirst 2 (s.bu.watch.history.sum / s.bu.watch.history.length)
        ++ highFirst 1 s.bu.watch.history.length ++ highFirst 4 s.bu.bxSeq.toNat)) ∧
    exec .readCauses s = .next (s.answered .readCauses 0x00#8 [s.au.causes, s.au.enables]) ∧
    (s.au.refusal = none → exec .readRefusal s = .next (s.answered .readRefusal 0x24#8 [])) ∧
    (∀ r, s.au.refusal = some r → exec .readRefusal s = .next (s.answered .readRefusal 0x00#8
      ([if r.port = .host then 0#8 else 1#8] ++ highFirst 3 r.addr.toNat ++ [r.reason.code])))

/-- A command of the link that is not answered DONE, and a frame that is not taken, leave everything but the link as
it was; a slot operand above 15 is answered BAD_SLOT (R1, R166, R167, R173). -/
def Obligations.RefusedCommandsChangeOnlyTheLink : Prop :=
  ∀ s : State,
    (∀ c t, (encodeFrame c).isSome = true → c ≠ .softReset → exec c s = .next t → t.ml.response.status ≠ 0x00#8 →
      t = { s with ml := t.ml }) ∧
    (∀ bits st t, judgeFrame bits = .error st → exec (.frameNotTaken bits) s = .next t → t = { s with ml := t.ml }) ∧
    (s.ml.frame ≠ .discarding →
      (∀ slot : Byte, 16 ≤ slot.toNat → ∀ c ∈ [Instr.enable slot, .disable slot, .clear slot, .hold slot, .release slot,
        .abort slot, .queryWindow slot], Refuses c s 0x20#8) ∧
      (∀ o : DefineOperands, 16 ≤ o.slot.toNat → Refuses (.define o) s 0x20#8))

/-! ### The window table (chapters 1 and 2) -/

/-- DEFINE for a slot of the table is checked in the order of R6, with the overlap test of R7, and each failure is
answered with its status and changes nothing. -/
def Obligations.DefineIsCheckedInOrder : Prop :=
  ∀ (s : State) (o : DefineOperands) (k : Slot), s.ml.frame ≠ .discarding → o.slot.toNat = k.val →
    ((s.window k).life = .active ∨ (s.window k).life = .held ∨ (s.window k).life = .faulted →
      Refuses (.define o) s 0x21#8) ∧
    ((s.window k).life = .unused ∨ (s.window k).life = .defined →
      (¬ o.Fits → Refuses (.define o) s 0x22#8) ∧
      (o.Fits → s.BreaksOverlapLaw k o.descriptor → Refuses (.define o) s 0x23#8))

/-- A DEFINE that passes every check loads the slot: descriptor, DEFINED, bank A, generation 0, CLEAN, counts 0; the
resync queue, the stamp queue and the view table are left as they are; and under the laws of the bridge they hold
nothing of the slot (R8). -/
def Obligations.DefineLoadsTheSlot : Prop :=
  ∀ (s : State) (o : DefineOperands) (k : Slot), s.ml.frame ≠ .discarding → o.slot.toNat = k.val →
    (s.window k).life = .unused ∨ (s.window k).life = .defined → o.Fits → ¬ s.BreaksOverlapLaw k o.descriptor →
    exec (.define o) s = .next ((s.setWindow k
      { desc := some o.descriptor, life := .defined, live := .a, gen := 0, phase := .clean, dirty := 0,
        cadenceCount := 0, lateCount := 0, inbox := (s.window k).inbox }).answered (.define o) 0x00#8 []) ∧
    (s.Lawful → (∀ e ∈ s.re.queue, e.slot ≠ k) ∧ (∀ r ∈ s.sw.queue, r.slot ≠ k) ∧
      s.tu.entry k = { view := .live, restorePending := false })

/-- ENABLE of a DEFINED window: ACTIVE and restarted, its 32 segments queued for priming, its enable stamp record
queued, its view set from the trip state; any other lifecycle is answered BAD_STATE (R10, R113, R150). -/
def Obligations.EnablePrimesTheWindow : Prop :=
  ∀ (s : State) (slot : Byte) (k : Slot), s.ml.frame ≠ .discarding → slot.toNat = k.val →
    (∀ d, (s.window k).life = .defined → (s.window k).desc = some d →
      exec (.enable slot) s = .next (({ s.setWindow k { s.window k with
            life := .active, phase := .clean, dirty := 0, cadenceCount := 0, lateCount := 0 } with
          re := { s.re with queue := s.re.queue ++ (List.finRange 32).map fun i => { slot := k, seg := i } }
          sw := match d.stampAddr with
            | none   => s.sw
            | some a => s.sw.withRecord {
                slot := k, stampAddr := a, gen := (s.window k).gen, live := (s.window k).live,
                lateCount := 0, held := false, enable := true,
                seq := match d.source with
                  | .pt => s.bu.ptSeq
                  | .bx => s.bu.bxSeq }
          tu := s.tu.setEntry k (match d.tripProtected, s.tu.state with
            | true, .tripped   => { view := .safe, restorePending := false }
            | true, .restoring => { view := .safe, restorePending := true }
            | _, _             => { view := .live, restorePending := false }) } : State).answered
        (.enable slot) 0x00#8 [])) ∧
    ((s.window k).life ≠ .defined → Refuses (.enable slot) s 0x21#8)

/-- HOLD moves ACTIVE to HELD and RELEASE moves HELD to ACTIVE; neither changes anything else, and from any other
lifecycle each is answered BAD_STATE (R11, R12). -/
def Obligations.HoldAndReleaseMoveOnlyTheLifecycle : Prop :=
  ∀ (s : State) (slot : Byte) (k : Slot), s.ml.frame ≠ .discarding → slot.toNat = k.val →
    ((s.window k).life = .active → exec (.hold slot) s =
      .next ((s.setWindow k { s.window k with life := .held }).answered (.hold slot) 0x00#8 [])) ∧
    ((s.window k).life ≠ .active → Refuses (.hold slot) s 0x21#8) ∧
    ((s.window k).life = .held → exec (.release slot) s =
      .next ((s.setWindow k { s.window k with life := .active }).answered (.release slot) 0x00#8 [])) ∧
    ((s.window k).life ≠ .held → Refuses (.release slot) s 0x21#8)

/-- DISABLE of a window in service: DEFINED and restarted with descriptor, live bank and generation kept, its entries
purged, its stamp record removed, its view LIVE, and boundaries not yet taken gone; otherwise BAD_STATE (R13, R36,
R68, R118, R151). The boundaries gone are those of the inbox of notes/assumptions/14.md. -/
def Obligations.DisablePurgesTheWindow : Prop :=
  ∀ (s : State) (slot : Byte) (k : Slot), s.ml.frame ≠ .discarding → slot.toNat = k.val →
    ((s.window k).life = .active ∨ (s.window k).life = .held ∨ (s.window k).life = .faulted →
      ∃ re sw tu, exec (.disable slot) s = .next (({ s.setWindow k { s.window k with
            life := .defined, phase := .clean, dirty := 0, cadenceCount := 0, lateCount := 0, inbox := [] } with
          re := re, sw := sw, tu := tu } : State).answered (.disable slot) 0x00#8 []) ∧
        Purged s.re re k ∧ RecordRemoved s.sw sw k ∧ BackToLive s.tu tu k) ∧
    ((s.window k).life = .unused ∨ (s.window k).life = .defined → Refuses (.disable slot) s 0x21#8)

/-- CLEAR of a DEFINED window discards the descriptor and keeps the rest of the record, and no address is classed to
the slot from then on; any other lifecycle is answered BAD_STATE (R15). -/
def Obligations.ClearFreesTheSlot : Prop :=
  ∀ (s : State) (slot : Byte) (k : Slot), s.ml.frame ≠ .discarding → slot.toNat = k.val →
    ((s.window k).life = .defined → ∃ t, exec (.clear slot) s = .next t ∧
      t = (s.setWindow k { s.window k with life := .unused, desc := none }).answered (.clear slot) 0x00#8 [] ∧
      ∀ a offset, t.classify a ≠ .logical k offset ∧ t.classify a ≠ .concealed k ∧ t.classify a ≠ .stampPair k) ∧
    ((s.window k).life ≠ .defined → Refuses (.clear slot) s 0x21#8)

/-- ABORT of an update under way hands the dirty segments, ascending, to the tail of the resync queue and leaves the
record CLEAN, the rest kept; in every other case it is answered BAD_STATE; under the laws of the bridge no entry is
duplicated and the window holds at most 32 (R32). -/
def Obligations.AbortHandsTheDirtySetOver : Prop :=
  ∀ (s : State) (slot : Byte) (k : Slot), s.ml.frame ≠ .discarding → slot.toNat = k.val →
    ((s.window k).life = .active ∨ (s.window k).life = .held → (s.window k).phase ≠ .clean →
      ∃ t, exec (.abort slot) s = .next t ∧
        t = ({ s.setWindow k { s.window k with phase := .clean, dirty := 0 } with
          re := { s.re with queue := s.re.queue ++
            ((List.finRange 32).filter fun i => (s.window k).dirty.getLsbD i.val).map fun i =>
              { slot := k, seg := i } } } : State).answered (.abort slot) 0x00#8 [] ∧
        (QueueLawful s → t.re.queue.Nodup ∧ (t.re.queue.filter (·.slot = k)).length ≤ 32)) ∧
    (¬ (((s.window k).life = .active ∨ (s.window k).life = .held) ∧ (s.window k).phase ≠ .clean) →
      Refuses (.abort slot) s 0x21#8)

/-- A descriptor is held until a DEFINE or CLEAR of its slot or a full reset; a generation and a live bank change only
at a DEFINE of the slot, a full reset, and a flip, which raises the one by one and toggles the other (R2, R18). -/
def Obligations.DescriptorsAndGenerationsAreKept : Prop :=
  (∀ (c : Instr) (s t : State) (k : Slot), c.wellFormed = true → exec c s = .next t →
    ((t.window k).desc = (s.window k).desc ∨ (∃ o, c = .define o ∧ o.slot.toNat = k.val) ∨
      (∃ slot, c = .clear slot ∧ slot.toNat = k.val) ∨ ∃ b, c = .fullReset b) ∧
    (((t.window k).gen = (s.window k).gen ∧ (t.window k).live = (s.window k).live) ∨
      (∃ o, c = .define o ∧ o.slot.toNat = k.val) ∨ (∃ b, c = .fullReset b) ∨
      (c = .windowTakeBoundary k ∧ (s.window k).phase = .complete ∧ (t.window k).gen = (s.window k).gen + 1 ∧
        (t.window k).live = (s.window k).live.other))) ∧
  ∀ (s t : State) (k : Slot), s.pending = [] → step s = .next t → (t.window k).desc = (s.window k).desc ∧
    (t.window k).gen = (s.window k).gen ∧ (t.window k).live = (s.window k).live

/-! ### Boundaries (chapters 3 and 8) -/

/-- FORCE BOUNDARY of a source delivers one boundary of it: its counter rises by one, and each window in service that
counts the source is handed the boundary with the counter's new value; no timer, filter or watch state moves. Any
other operand is answered BAD_PARAM (R36, R122, R141). Boundaries wait in the inbox of notes/assumptions/14.md. -/
def Obligations.ForcedBoundaryIsDelivered : Prop :=
  ∀ (s : State) (operand : Byte), s.ml.frame ≠ .discarding →
    (∀ src : Source, operand.toNat = src.code → ∃ t, exec (.forceBoundary operand) s = .next t ∧
      t = ({ s with bu := t.bu, windows := t.windows } : State).answered (.forceBoundary operand) 0x00#8 [] ∧
      t = (s.deliver src).answered (.forceBoundary operand) 0x00#8 [] ∧
      t.bu = (match src with
        | .pt => { s.bu with ptSeq := s.bu.ptSeq + 1 }
        | .bx => { s.bu with bxSeq := s.bu.bxSeq + 1 }) ∧
      ∀ k, t.window k =
        if ((s.window k).life = .active ∨ (s.window k).life = .held ∨ (s.window k).life = .faulted) ∧
          ∃ d ∈ (s.window k).desc, d.source = src then
          { s.window k with inbox := (s.window k).inbox ++ [{ source := src, seq := match src with
            | .pt => s.bu.ptSeq + 1
            | .bx => s.bu.bxSeq + 1 }] }
        else s.window k) ∧
    (1 < operand.toNat → Refuses (.forceBoundary operand) s 0x22#8)

/-- PT SET is checked in the order of R128: BAD_PARAM, then BAD_STATE for a running timer whose other settings differ; a
stopped timer takes all four settings, a running one takes the period as pending. -/
def Obligations.PtSetTakesItsSettings : Prop :=
  ∀ (s : State) (e m sel : Byte) (p : BitVec 16), s.ml.frame ≠ .discarding →
    (7 < e.toNat ∨ 1 < m.toNat ∨ 2 < sel.toNat ∨ p = 0 → Refuses (.ptSet e m sel p) s 0x22#8) ∧
    ∀ (mode : TimerMode) (selection : Selection), e.toNat ≤ 7 → m.toNat = mode.code → sel.toNat = selection.code →
      p ≠ 0 →
      (s.bu.pt.running = false → exec (.ptSet e m sel p) s = .next (({ s with bu := { s.bu with pt := { s.bu.pt with
        exponent := e.toNat, mode := mode, selection := selection, period := p.toNat, pendingPeriod := none } } } :
          State).answered (.ptSet e m sel p) 0x00#8 [])) ∧
      (s.bu.pt.running = true →
        (e.toNat = s.bu.pt.exponent ∧ mode = s.bu.pt.mode ∧ selection = s.bu.pt.selection →
          exec (.ptSet e m sel p) s = .next (({ s with bu := { s.bu with pt := { s.bu.pt with
            pendingPeriod := some p.toNat } } } : State).answered (.ptSet e m sel p) 0x00#8 [])) ∧
        (¬ (e.toNat = s.bu.pt.exponent ∧ mode = s.bu.pt.mode ∧ selection = s.bu.pt.selection) →
          Refuses (.ptSet e m sel p) s 0x21#8))

/-- PT START runs a stopped timer from count 0, direction UP, prescale 0, and is answered BAD_STATE by a running one;
PT STOP stops it in either state and moves a pending period into P; neither delivers a boundary, and a stopped timer
takes no step and is left by PT STOP as it stands (R130). -/
def Obligations.PtStartAndStop : Prop :=
  ∀ s : State, s.ml.frame ≠ .discarding →
    (s.bu.pt.running = false → exec .ptStart s = .next (({ s with bu := { s.bu with pt := { s.bu.pt with
      running := true, count := 0, direction := .up, prescale := 0 } } } : State).answered .ptStart 0x00#8 [])) ∧
    (s.bu.pt.running = true → Refuses .ptStart s 0x21#8) ∧
    exec .ptStop s = .next (({ s with bu := { s.bu with pt := { s.bu.pt with
      running := false, count := 0, direction := .up, prescale := 0,
      period := s.bu.pt.pendingPeriod.getD s.bu.pt.period, pendingPeriod := none } } } : State).answered
        .ptStop 0x00#8 []) ∧
    (s.bu.pt.running = false → exec .ptCountStep s = .next s) ∧
    (BoundaryLawful s → s.bu.pt.running = false → exec .ptStop s = .next (s.answered .ptStop 0x00#8 []))

/-- LINE SET and WATCH SET with operands in range replace the settings, keep the filtered level, and restart the
counts or the watch; out of range they are answered BAD_PARAM (R133, R139). -/
def Obligations.LineSetAndWatchSetRestart : Prop :=
  ∀ (s : State), s.ml.frame ≠ .discarding →
    (∀ e d : Byte,
      (e.toNat ≤ 7 ∧ (d.toNat = 1 ∨ d.toNat = 4 ∨ d.toNat = 8 ∨ d.toNat = 16) →
        exec (.lineSet e d) s = .next (({ s with bu := { s.bu with line := {
          level := s.bu.line.level, run := 0, prescale := 0, exponent := e.toNat, depth := d.toNat } } } :
            State).answered (.lineSet e d) 0x00#8 [])) ∧
      (¬ (e.toNat ≤ 7 ∧ (d.toNat = 1 ∨ d.toNat = 4 ∨ d.toNat = 8 ∨ d.toNat = 16)) →
        Refuses (.lineSet e d) s 0x22#8)) ∧
    (∀ (en e trip : Byte) (mn mx : BitVec 16),
      (e.toNat ≤ 7 ∧ mn ≠ 0 ∧ mn.toNat < mx.toNat →
        exec (.watchSet en e mn mx trip) s = .next (({ s with bu := { s.bu with watch := {
          enable := en.getLsbD 0, exponent := e.toNat, min := mn.toNat, max := mx.toNat,
          tripOnLost := trip.getLsbD 0, count := 0, prescale := 0, first := true, history := [] } } } :
            State).answered (.watchSet en e mn mx trip) 0x00#8 [])) ∧
      (¬ (e.toNat ≤ 7 ∧ mn ≠ 0 ∧ mn.toNat < mx.toNat) → Refuses (.watchSet en e mn mx trip) s 0x22#8))

/-- A count step of a running timer. In SAW mode the count rises below P, and at P wraps to 0: a pending period is moved
into P and a PT boundary is delivered. In TRI mode, row by row: rise, peak, fall, trough; a peak or a trough
delivers a PT boundary when the selection names it, and a trough moves a pending period into P whatever the
selection (R126, R127). The event is taken at any prescale count (notes/assumptions/4.md). -/
def Obligations.CountStepFollowsTheMode : Prop :=
  ∀ s : State, s.bu.pt.running = true →
    let stepped := fun pt : PeriodTimer => ({ s with bu := { s.bu with pt := { pt with prescale := 0 } } } : State)
    let reloaded := { s.bu.pt with period := s.bu.pt.pendingPeriod.getD s.bu.pt.period, pendingPeriod := none }
    let peak := stepped { s.bu.pt with count := s.bu.pt.period, direction := .down }
    let trough := stepped { reloaded with count := 0, direction := .up }
    (s.bu.pt.mode = .saw →
      (s.bu.pt.count < s.bu.pt.period →
        exec .ptCountStep s = .next (stepped { s.bu.pt with count := s.bu.pt.count + 1 })) ∧
      (s.bu.pt.count = s.bu.pt.period →
        exec .ptCountStep s = .next ((stepped { reloaded with count := 0 }).deliver .pt))) ∧
    (s.bu.pt.mode = .tri →
      (s.bu.pt.direction = .up → s.bu.pt.count + 1 < s.bu.pt.period →
        exec .ptCountStep s = .next (stepped { s.bu.pt with count := s.bu.pt.count + 1 })) ∧
      (s.bu.pt.direction = .up → s.bu.pt.count + 1 = s.bu.pt.period → exec .ptCountStep s =
        .next (if s.bu.pt.selection = .peak ∨ s.bu.pt.selection = .both then peak.deliver .pt else peak)) ∧
      (s.bu.pt.direction = .down → 1 < s.bu.pt.count →
        exec .ptCountStep s = .next (stepped { s.bu.pt with count := s.bu.pt.count - 1 })) ∧
      (s.bu.pt.direction = .down → s.bu.pt.count = 1 → exec .ptCountStep s =
        .next (if s.bu.pt.selection = .trough ∨ s.bu.pt.selection = .both then trough.deliver .pt else trough)))

/-- One period takes P + 1 count steps in SAW mode and 2 x P in TRI mode, after which the timer stands at count 0 with a
pending period moved into P: one boundary in SAW and in TRI with PEAK or TROUGH, two with BOTH (R126, R127). Each step is
taken at any prescale count (notes/assumptions/4.md). -/
def Obligations.OnePeriodDeliversItsBoundaries : Prop :=
  ∀ s : State, s.bu.pt.running = true → s.bu.pt.count = 0 → s.bu.pt.direction = .up →
    (s.bu.pt.mode = .saw →
      ∃ t, runCommands (List.replicate (s.bu.pt.period + 1) .ptCountStep) s = some t ∧ t.bu.pt.count = 0 ∧
        t.bu.pt.period = s.bu.pt.pendingPeriod.getD s.bu.pt.period ∧ t.bu.pt.pendingPeriod = none ∧
        t.bu.ptSeq = s.bu.ptSeq + 1) ∧
    (s.bu.pt.mode = .tri → 1 ≤ s.bu.pt.period →
      ∃ t, runCommands (List.replicate (2 * s.bu.pt.period) .ptCountStep) s = some t ∧ t.bu.pt.count = 0 ∧
        t.bu.pt.direction = .up ∧ t.bu.pt.period = s.bu.pt.pendingPeriod.getD s.bu.pt.period ∧
        t.bu.pt.pendingPeriod = none ∧
        t.bu.ptSeq = s.bu.ptSeq + (if s.bu.pt.selection = .both then 2 else 1))

/-- A sample of BND: an agreeing sample clears the run, a differing one counts until the depth is reached and the level
follows; a rise is a BX edge, which the watch judges by its state in the same event, delivering it or raising
EARLY_BOUNDARY (R132, R134, R137). The event is taken at any prescale count, and the sampled level stands on the
line (notes/assumptions/4.md, 12.md). -/
def Obligations.LineSampleFiltersAndJudgesEdges : Prop :=
  ∀ (s : State) (l : Level),
    let s0 : State := { s with pins := { s.pins with bnd := l } }
    let w := s.bu.watch
    (l = s.bu.line.level → exec (.lineSample l) s = .next { s0 with
      bu := { s.bu with line := { s.bu.line with run := 0, prescale := 0 } } }) ∧
    (l ≠ s.bu.line.level → s.bu.line.run + 1 < s.bu.line.depth → exec (.lineSample l) s = .next { s0 with
      bu := { s.bu with line := { s.bu.line with run := s.bu.line.run + 1, prescale := 0 } } }) ∧
    (l ≠ s.bu.line.level → s.bu.line.depth ≤ s.bu.line.run + 1 →
      let bu := { s.bu with line := { s.bu.line with level := l, run := 0, prescale := 0 } }
      (l = .low → exec (.lineSample l) s = .next { s0 with bu := bu }) ∧
      (l = .high →
        (w.enable = false → exec (.lineSample l) s = .next (({ s0 with bu := bu } : State).deliver .bx)) ∧
        (w.enable = true → w.first = true → exec (.lineSample l) s = .next (({ s0 with bu := { bu with
          watch := { w with count := 0, prescale := 0, first := false } } } : State).deliver .bx)) ∧
        (w.enable = true → w.first = false → w.count < w.min → exec (.lineSample l) s = .next { s0 with
          bu := bu, au := { s.au with causes := s.au.causes ||| 0x08#8 } }) ∧
        (w.enable = true → w.first = false → w.min ≤ w.count → exec (.lineSample l) s = .next (({ s0 with bu := { bu with
          watch := { w with count := 0, prescale := 0, history := lastEight (w.history ++ [w.count]) } } } :
            State).deliver .bx))))

/-- A watch step of a counting watch raises the count; at MAX the boundary is lost: the count returns to 0,
LOST_BOUNDARY is raised, and a trip is demanded when trip-on-lost is set. A watch that is not counting takes no step
(R136). The event is taken at any prescale count (notes/assumptions/4.md). -/
def Obligations.WatchStepCountsOrLosesTheBoundary : Prop :=
  ∀ s : State,
    let w := s.bu.watch
    (w.enable = false ∨ w.first = true → exec .watchStep s = .next s) ∧
    (w.enable = true → w.first = false →
      (w.count + 1 < w.max → exec .watchStep s = .next { s with bu := { s.bu with
        watch := { w with count := w.count + 1, prescale := 0 } } }) ∧
      (w.max ≤ w.count + 1 →
        let lost : State := { s with bu := { s.bu with watch := { w with count := 0, prescale := 0 } },
                                     au := { s.au with causes := s.au.causes ||| 0x10#8 } }
        exec .watchStep s = .next (if w.tripOnLost = true then lost.tripDemand .watch else lost)))

/-- A window takes the oldest boundary delivered to it. Below its cadence only the count moves. The boundary that
completes the cadence returns the count to 0, restores a pending view, and then, when the update is COMPLETE, flips
the window if it is ACTIVE with no resync entry and view LIVE, and otherwise counts it late and raises LATE_FLIP
(R36 to R43, R46, R149). Boundaries wait in the inbox of notes/assumptions/14.md; with none waiting nothing changes
(5.md). -/
def Obligations.WindowTakesItsBoundary : Prop :=
  ∀ (s : State) (k : Slot),
    ((s.window k).inbox = [] → exec (.windowTakeBoundary k) s = .next s) ∧
    ∀ (b : Boundary) (rest : List Boundary) (d : Descriptor), (s.window k).inbox = b :: rest →
      (s.window k).desc = some d →
      ((s.window k).cadenceCount + 1 < d.cadence → exec (.windowTakeBoundary k) s = .next (s.setWindow k
        { s.window k with inbox := rest, cadenceCount := (s.window k).cadenceCount + 1 })) ∧
      (d.cadence ≤ (s.window k).cadenceCount + 1 →
        let w : Window := { s.window k with inbox := rest, cadenceCount := 0 }
        ∃ tu, ((s.tu.entry k).restorePending = false → tu = s.tu) ∧
          ((s.tu.entry k).restorePending = true → BackToLive s.tu tu k) ∧
          (w.phase ≠ .complete → exec (.windowTakeBoundary k) s = .next { s.setWindow k w with tu := tu }) ∧
          (w.phase = .complete →
            (w.life = .active ∧ (∀ e ∈ s.re.queue, e.slot ≠ k) ∧ (tu.entry k).view = .live →
              exec (.windowTakeBoundary k) s = .next { s.setWindow k { w with
                    live := w.live.other, gen := w.gen + 1, phase := .clean, dirty := 0, lateCount := 0,
                    life := if d.singleShot then .held else .active } with
                  re := { s.re with queue := s.re.queue ++
                    ((List.finRange 32).filter fun i => w.dirty.getLsbD i.val).map fun i => { slot := k, seg := i } }
                  sw := match d.stampAddr with
                    | none   => s.sw
                    | some a => s.sw.withRecord {
                        slot := k, stampAddr := a, gen := w.gen + 1, live := w.live.other,
                        lateCount := w.lateCount, held := d.singleShot, enable := false, seq := b.seq }
                  tu := tu }) ∧
            (¬ (w.life = .active ∧ (∀ e ∈ s.re.queue, e.slot ≠ k) ∧ (tu.entry k).view = .live) →
              exec (.windowTakeBoundary k) s = .next { s.setWindow k { w with lateCount := min (w.lateCount + 1) 255 } with
                  tu := tu, au := { s.au with causes := s.au.causes ||| 0x04#8 } })))

/-! ### Trips (chapter 9) -/

/-- TRIP SET with operands in range replaces the settings, keeps the filtered level and restarts its counts, and takes
and ends no trip; out of range it is answered BAD_PARAM (R145). -/
def Obligations.TripSetReplacesTheSettings : Prop :=
  ∀ (s : State) (e d en : Byte), s.ml.frame ≠ .discarding →
    (e.toNat ≤ 7 ∧ (d.toNat = 1 ∨ d.toNat = 4 ∨ d.toNat = 8 ∨ d.toNat = 16) ∧ en.toNat ≤ 1 →
      exec (.tripSet e d en) s = .next (({ s with tu := { s.tu with
        lineTrip := en.getLsbD 0,
        filter := { level := s.tu.filter.level, run := 0, prescale := 0, exponent := e.toNat, depth := d.toNat } } } :
          State).answered (.tripSet e d en) 0x00#8 [])) ∧
    (¬ (e.toNat ≤ 7 ∧ (d.toNat = 1 ∨ d.toNat = 4 ∨ d.toNat = 8 ∨ d.toNat = 16) ∧ en.toNat ≤ 1) →
      Refuses (.tripSet e d en) s 0x22#8)

/-- A trip demand in NORMAL or RESTORING takes a trip: TRIPPED with the demand's reason, every protected window in
service SAFE with nothing pending, the TRIP cause raised, nothing else changed; in TRIPPED it changes nothing. TRIP
NOW makes one with reason COMMAND and is answered DONE in every state (R146, R147). -/
def Obligations.TripDemandTakesTheTrip : Prop :=
  ∀ (s : State),
    (∀ reason,
      (s.tu.state = .tripped → s.tripDemand reason = s) ∧
      (s.tu.state ≠ .tripped → ∃ views, s.tripDemand reason = { s with
          tu := { s.tu with state := .tripped, reason := some reason, views := views }
          au := { s.au with causes := s.au.causes ||| 0x01#8 } } ∧
        ∀ k : Slot, views[k] =
          if ((s.window k).life = .active ∨ (s.window k).life = .held ∨ (s.window k).life = .faulted) ∧
            ∃ d ∈ (s.window k).desc, d.tripProtected = true then { view := .safe, restorePending := false }
          else s.tu.entry k)) ∧
    (s.ml.frame ≠ .discarding → exec .tripNow s = .next ((s.tripDemand .command).answered .tripNow 0x00#8 []))

/-- A sample of TRP moves the trip filter as a sample of BND moves the line filter; a rise of the filtered level with
line-trip enabled is a trip demand with reason LINE, and any other change demands nothing (R144, R146). The event is
taken at any prescale count, and the sampled level stands on the line (notes/assumptions/4.md, 12.md). -/
def Obligations.TripSampleFiltersTheLine : Prop :=
  ∀ (s : State) (l : Level),
    let f := s.tu.filter
    let with_ := fun g : Filter => ({ s with pins := { s.pins with trp := l }, tu := { s.tu with filter := g } } : State)
    (l = f.level → exec (.tripSample l) s = .next (with_ { f with run := 0, prescale := 0 })) ∧
    (l ≠ f.level → f.run + 1 < f.depth →
      exec (.tripSample l) s = .next (with_ { f with run := f.run + 1, prescale := 0 })) ∧
    (l ≠ f.level → f.depth ≤ f.run + 1 →
      let t := with_ { f with level := l, run := 0, prescale := 0 }
      exec (.tripSample l) s = .next (if l = .high ∧ s.tu.lineTrip = true then t.tripDemand .line else t))

/-- TRIP RELEASE in TRIPPED is answered BAD_STATE while line-trip is enabled with the level ASSERTED, and otherwise gives
every SAFE entry restore pending and enters RESTORING, or NORMAL with no reason when no entry is SAFE; no view changes.
In NORMAL and RESTORING it is answered BAD_STATE (R148). -/
def Obligations.TripReleaseStartsTheReturn : Prop :=
  ∀ s : State, s.ml.frame ≠ .discarding →
    (s.tu.state ≠ .tripped ∨ (s.tu.lineTrip = true ∧ s.tu.filter.level = .high) → Refuses .tripRelease s 0x21#8) ∧
    (s.tu.state = .tripped → ¬ (s.tu.lineTrip = true ∧ s.tu.filter.level = .high) →
      ∃ tu, exec .tripRelease s = .next (({ s with tu := tu } : State).answered .tripRelease 0x00#8 []) ∧
        (∀ k, (tu.entry k).view = (s.tu.entry k).view) ∧
        (∀ k, (tu.entry k).restorePending = true ↔
          (s.tu.entry k).view = .safe ∨ (s.tu.entry k).restorePending = true) ∧
        tu.lineTrip = s.tu.lineTrip ∧ tu.filter = s.tu.filter ∧
        ((∃ k, (s.tu.entry k).view = .safe) → tu.state = .restoring ∧ tu.reason = s.tu.reason) ∧
        ((∀ k, (s.tu.entry k).view = .live) → tu.state = .normal ∧ tu.reason = none))

/-! ### Attention (chapter 10) -/

/-- CLEAR CAUSES removes the named causes, SET MASK replaces the enable set, and READ FAULT removes and reports the
oldest fault record with the number left, or is answered EMPTY; each changes nothing else (R159, R161). -/
def Obligations.AttentionCommandsActOnTheirOwnItem : Prop :=
  ∀ s : State, s.ml.frame ≠ .discarding →
    (∀ b : Byte, ∃ t, exec (.clearCauses b) s = .next t ∧
      t = ({ s with au := { s.au with causes := t.au.causes } } : State).answered (.clearCauses b) 0x00#8 [] ∧
      ∀ i, t.au.causes.getLsbD i = (s.au.causes.getLsbD i && !b.getLsbD i)) ∧
    (∀ b : Byte, exec (.setMask b) s = .next (({ s with au := { s.au with enables := b } } : State).answered
      (.setMask b) 0x00#8 [])) ∧
    (s.au.faults = [] → Refuses .readFault s 0x24#8) ∧
    (∀ r rs, s.au.faults = r :: rs → exec .readFault s = .next (({ s with au := { s.au with faults := rs } } :
        State).answered .readFault 0x00#8
      ([r.origin.code, r.kind.code, if r.isWrite then 1#8 else 0#8] ++ (match r.slot with
          | none   => [0xFF#8]
          | some k => highFirst 1 k.val)
        ++ highFirst 3 r.addr.toNat ++ highFirst 1 rs.length)))

/-- ATN is asserted exactly while the cause set and the enable set have a cause in common; raising a cause that is not
enabled leaves ATN as it was, and raising an enabled one asserts it (R158). -/
def Obligations.AtnFollowsCausesAndEnables : Prop :=
  ∀ s : State, (s.atn = true ↔ ∃ c : Cause, s.au.present c = true ∧ s.au.enables &&& c.mask ≠ 0#8) ∧
    ∀ c : Cause, (s.au.enables &&& c.mask = 0#8 → (s.raise c).atn = s.atn) ∧
      (s.au.enables &&& c.mask ≠ 0#8 → (s.raise c).atn = true)

/-- A cause stays present through every command but a CLEAR CAUSES that names it, SOFT RESET and a full reset, and
through every idle clock; the enable set changes only at SET MASK and a full reset (R157, R159, R164). -/
def Obligations.CausesStayUntilCleared : Prop :=
  (∀ (c : Instr) (s t : State) (k : Cause), c.wellFormed = true → exec c s = .next t →
    (s.au.present k = true → t.au.present k = true ∨ c = .softReset ∨ (∃ b, c = .fullReset b) ∨
      ∃ b, c = .clearCauses b ∧ b &&& k.mask ≠ 0#8) ∧
    (t.au.enables = s.au.enables ∨ (∃ b, c = .setMask b) ∨ ∃ b, c = .fullReset b)) ∧
  ∀ (s t : State), s.pending = [] → step s = .next t →
    (∀ k : Cause, s.au.present k = true → t.au.present k = true) ∧ t.au.enables = s.au.enables

/-! ### The memory port (chapter 6) -/

/-- MEMORY SET replaces the timeout setting for later grants and leaves the awaiting access and its limit; values
other than 0 and 4 to 15 are answered BAD_PARAM (R107). -/
def Obligations.MemorySetAppliesToLaterGrants : Prop :=
  ∀ (s : State) (b : Byte), s.ml.frame ≠ .discarding →
    (b = 0 → exec (.memorySet b) s = .next (({ s with mp := { s.mp with timeout := none } } : State).answered
      (.memorySet b) 0x00#8 [])) ∧
    (4 ≤ b.toNat → b.toNat ≤ 15 → exec (.memorySet b) s = .next (({ s with mp := { s.mp with
      timeout := some b.toNat } } : State).answered (.memorySet b) 0x00#8 [])) ∧
    (b ≠ 0 → b.toNat < 4 ∨ 15 < b.toNat → Refuses (.memorySet b) s 0x22#8)

/-- A grant goes to CP, then SW, then HP, then RE; at a passover count of 16 a grant that rank would give HP goes to
RE if it asks; the passover count moves as R102 lays down. A port asks exactly in REQUESTING, for its head's
translated request; the stamp writer exactly while the write of its head record's word is requested; the resync engine
exactly while the access of its in-flight entry is requested; and while the stamp queue is not empty the resync engine
is granted nothing, under the laws of the memory port. Nothing is granted while an access is awaiting its answer or no
client asks (R99, R100, R101, R102, R113). That nothing changes then is notes/assumptions/5.md. -/
def Obligations.GrantsFollowRankAndPassover : Prop :=
  ∀ s : State, ∃ t, exec .memoryGrant s = .next t ∧
    let cp := portRequest .cp s.cp
    let sw := s.sw.access
    let hp := portRequest .hp s.hp
    let re := s.copyRequest
    let granted := fun (a : Access) (passover : Nat) =>
      t.mp.awaiting.map (·.access) = some a ∧ t.mp.passover = passover
    (∀ a, (cp = some a ↔ s.cp.Asks .cp a) ∧ (sw = some a ↔ s.sw.Asks a) ∧ (hp = some a ↔ s.hp.Asks .hp a) ∧
      (re = some a ↔ s.ResyncAsks a)) ∧
    (MemoryLawful s → s.mp.awaiting = none → s.sw.queue ≠ [] → ∃ a ∈ t.mp.awaiting,
      a.access.client = .cp ∨ a.access.client = .sw) ∧
    (s.mp.awaiting ≠ none → t = s) ∧
    (s.mp.awaiting = none →
      (cp = none → sw = none → hp = none → re = none → t = s) ∧
      (∀ a, cp = some a → granted a s.mp.passover) ∧
      (∀ a, cp = none → sw = some a → granted a s.mp.passover) ∧
      (∀ a, cp = none → sw = none → hp = some a → re = none → granted a 0) ∧
      (∀ a b, cp = none → sw = none → hp = some a → re = some b → s.mp.passover < 16 → granted a (s.mp.passover + 1)) ∧
      (∀ a b, cp = none → sw = none → hp = some a → re = some b → s.mp.passover = 16 → granted b 0) ∧
      (∀ b, cp = none → sw = none → hp = none → re = some b → granted b 0))

/-- The granted request is issued as its client asked for it, with the tag counter's value: a port's translated
request, the read of a word of the live bank or its write to the same word of the shadow bank, or the stamp record's
word 1 and then word 0, whose bits are generation, live bank, late count (at most 255, as the laws of the bridge keep
it), held flag, enable flag and zeros, from bit 0 up. The tag counter rises by one, the limit is that of the setting
in force, and the client waits for its answer (R61, R100, R103, R114, R115, section 11.5.5). The record of accesses is
notes/assumptions/13.md, the address at the grant 15.md. -/
def Obligations.GrantIssuesTheClientsAccess : Prop :=
  ∀ (s : State) (a : Access) (passover : Nat), s.mp.awaiting = none → s.grantChoice = some (a, passover) →
    ∃ hp cp re sw, exec .memoryGrant s = .next { s with
        hp := hp, cp := cp, re := re, sw := sw
        mp := { s.mp with awaiting := some { access := a, tag := s.mp.tag, limit := s.mp.timeout.map (2 ^ ·), clocks := 0 }
                          tag := s.mp.tag + 1, passover := passover }
        out := { s.out with accesses := s.out.accesses ++ [{ access := a, tag := s.mp.tag }] } } ∧
      (a.client ≠ .hp → hp = s.hp) ∧ (a.client ≠ .cp → cp = s.cp) ∧ (a.client ≠ .re → re = s.re) ∧
      (a.client ≠ .sw → sw = s.sw) ∧
      (a.client = .hp → ∃ t r rest, s.hp.service = .requesting t ∧ s.hp.queue = r :: rest ∧
        a = { client := .hp, op := r.op, addr := t.addr, slot := t.slot } ∧ hp = { s.hp with service := .awaiting t }) ∧
      (a.client = .cp → ∃ t r rest, s.cp.service = .requesting t ∧ s.cp.queue = r :: rest ∧
        a = { client := .cp, op := r.op, addr := t.addr, slot := t.slot } ∧ cp = { s.cp with service := .awaiting t }) ∧
      (a.client = .re → ∃ c e rest d, s.re.copy = some c ∧ c.stage = .requested ∧ s.re.queue = e :: rest ∧
        (s.window e.slot).desc = some d ∧ re = { s.re with copy := some { c with stage := .granted } } ∧
        a = match c.step with
          | .read       => {
              client := .re, op := .read, slot := some e.slot,
              addr := d.bankBase (s.window e.slot).live + BitVec.ofNat 22 (e.seg.val * d.segLen + c.index) }
          | .write word => {
              client := .re, op := .write 0xF#4 word, slot := some e.slot,
              addr := d.bankBase (s.window e.slot).live.other + BitVec.ofNat 22 (e.seg.val * d.segLen + c.index) }) ∧
      (a.client = .sw → ∃ r rest, s.sw.queue = r :: rest ∧ s.sw.stage = .requested ∧ sw = { s.sw with stage := .granted } ∧
        (s.sw.step = .word1 →
          a = { client := .sw, op := .write 0xF#4 r.seq, addr := r.stampAddr + 1, slot := some r.slot }) ∧
        (s.sw.step = .word0 → ∃ word,
          a = { client := .sw, op := .write 0xF#4 word, addr := r.stampAddr, slot := some r.slot } ∧
          (r.lateCount ≤ 255 → r.IsWord0 word)))

/-- An answer while no access is awaiting, or with another tag, is discarded and changes nothing, and a timeout without
an access or without a limit does not happen (R105, R106). That such a timeout changes nothing is
notes/assumptions/5.md. -/
def Obligations.StrayAnswersAreDiscarded : Prop :=
  ∀ s : State,
    (∀ tag ans, (∀ a ∈ s.mp.awaiting, a.tag ≠ tag) → exec (.memoryAnswer tag ans) s = .next s) ∧
    ((∀ a ∈ s.mp.awaiting, a.limit = none) → exec .accessTimeout s = .next s)

/-- A FAULT answer to the awaiting access and its timeout free the memory port and hand over one fault record,
appended with MEMORY_FAULT or, on a full list, dropped with FAULT_OVERFLOW; an OK answer frees the port and reports
nothing (R104, R106, R108, R160). ACCESS_TIMEOUT is taken at any clock count (notes/assumptions/4.md). -/
def Obligations.FailuresLeaveOneFaultRecord : Prop :=
  ∀ (s : State) (a : AwaitingAccess), s.mp.awaiting = some a →
    (∀ c kind, a.FailsBy c kind → ∃ t, exec c s = .next t ∧ t.mp = { s.mp with awaiting := none } ∧
      t.out.accesses = s.out.accesses ∧ t.au.refusal = s.au.refusal ∧ t.au.enables = s.au.enables ∧
      (s.au.faults.length < 4 → t.au.faults = s.au.faults ++ [a.failure kind] ∧ t.au.present .memoryFault = true ∧
        (t.au.present .faultOverflow = true ↔ s.au.present .faultOverflow = true)) ∧
      (4 ≤ s.au.faults.length → t.au.faults = s.au.faults ∧ t.au.present .faultOverflow = true ∧
        (t.au.present .memoryFault = true ↔ s.au.present .memoryFault = true))) ∧
    (∀ word, ∃ t, exec (.memoryAnswer a.tag (.ok word)) s = .next t ∧ t.mp = { s.mp with awaiting := none } ∧
      t.au = s.au ∧ t.out.accesses = s.out.accesses)

/-- The answer to a port's access: the head request leaves with OK and the word of a read, or zero for a write, or
with FAULT; the OK of a staged write of the closing word in the shadow bank completes a STAGING update of an ACTIVE or
HELD window in the same event, and no other answer moves a record (R27, R29, R79, R82, R95). An offer held off is
accepted as the head leaves (R78; notes/assumptions/7.md). The completion is judged at the answer (16.md), and
ACCESS_TIMEOUT is taken at any clock count (4.md). -/
def Obligations.PortsAnswerTheirAccess : Prop :=
  ∀ (s : State) (a : AwaitingAccess) (tr : Translated) (r : Request) (rest : List Request), s.mp.awaiting = some a →
    (a.access.client = .cp → s.cp.service = .awaiting tr → s.cp.queue = r :: rest →
      (∀ word, exec (.memoryAnswer a.tag (.ok word)) s =
        .next (s.freed.servedOk .consumer (if opIsWrite r.op then 0 else word))) ∧
      (∀ c kind, a.FailsBy c kind →
        exec c s = .next { s.freed.servedFault .consumer with au := s.au.withFault (a.failure kind) })) ∧
    (a.access.client = .hp → s.hp.service = .awaiting tr → s.hp.queue = r :: rest →
      (∀ word, ∃ windows, exec (.memoryAnswer a.tag (.ok word)) s =
          .next { s.freed.servedOk .host (if opIsWrite r.op then 0 else word) with windows := windows } ∧
        ∀ k : Slot, windows[k] =
          if opIsWrite r.op = true ∧ tr.staged = true ∧ tr.slot = some k ∧
              ((s.window k).life = .active ∨ (s.window k).life = .held) ∧ (s.window k).phase = .staging ∧
              ∃ d ∈ (s.window k).desc,
                tr.addr = d.bankBase (s.window k).live.other + BitVec.ofNat 22 d.closingOffset then
            { s.window k with phase := .complete }
          else s.window k) ∧
      (∀ c kind, a.FailsBy c kind →
        exec c s = .next { s.freed.servedFault .host with au := s.au.withFault (a.failure kind) }))

/-! ### The resync engine (chapter 4) and the stamp writer (chapter 7) -/

/-- The resync engine takes the head of the queue in flight when none is and no write of a port waits for its grant with
an address in the entry's segment, in either bank: word index 0, the read of the first word requested; otherwise
nothing changes (R26, R60). That nothing changes then is notes/assumptions/5.md. -/
def Obligations.HeadIsTakenInFlight : Prop :=
  ∀ s : State, WindowsLawful s →
    (s.re.queue = [] ∨ s.re.copy ≠ none → exec .resyncTakeInFlight s = .next s) ∧
    ∀ e rest, s.re.queue = e :: rest → s.re.copy = none →
      (s.WaitingWriteInto e → exec .resyncTakeInFlight s = .next s) ∧
      (¬ s.WaitingWriteInto e → exec .resyncTakeInFlight s = .next { s with
        re := { s.re with copy := some { index := 0, step := .read, stage := .requested } } })

/-- An OK answer moves the copy of the in-flight entry on: the word read is held for its write; after the write the
next word is read; after the last word's write the entry leaves the queue, and is no longer awaited (R61, R62). -/
def Obligations.CopyRunsWordByWord : Prop :=
  ∀ (s : State) (a : AwaitingAccess) (c : Copy) (e : Entry) (rest : List Entry) (d : Descriptor) (word : Word),
    s.mp.awaiting = some a → a.access.client = .re → s.re.orphaned = false → s.re.copy = some c →
    s.re.queue = e :: rest → (s.window e.slot).desc = some d →
    (c.step = .read → exec (.memoryAnswer a.tag (.ok word)) s = .next { s.freed with
      re := { s.re with copy := some { index := c.index, step := .write word, stage := .requested } } }) ∧
    (∀ data, c.step = .write data → c.index + 1 < d.segLen → exec (.memoryAnswer a.tag (.ok word)) s = .next { s.freed with
      re := { s.re with copy := some { index := c.index + 1, step := .read, stage := .requested } } }) ∧
    (∀ data, c.step = .write data → d.segLen ≤ c.index + 1 → exec (.memoryAnswer a.tag (.ok word)) s = .next { s.freed with
      re := { s.re with queue := rest, copy := none
                        awaited := if s.re.awaited = some e then none else s.re.awaited } })

/-- A failed access of the in-flight entry moves its window to FAULTED: CLEAN, late count 0, the rest kept, every
entry of the window purged with nothing orphaned, WINDOW_FAULT raised. The answer to an orphaned access is discarded,
its failure still recorded (R16, R69, R71). ACCESS_TIMEOUT is taken at any clock count (notes/assumptions/4.md). -/
def Obligations.CopyFailureFaultsTheWindow : Prop :=
  ∀ (s : State) (a : AwaitingAccess) (cmd : Instr) (kind : FaultKind), s.mp.awaiting = some a → a.access.client = .re →
    (∀ c e rest, s.re.orphaned = false → s.re.copy = some c → s.re.queue = e :: rest → a.FailsBy cmd kind →
      exec cmd s = .next { s.freed.setWindow e.slot { s.window e.slot with
          life := .faulted, phase := .clean, dirty := 0, lateCount := 0 } with
        re := { queue := s.re.queue.filter (·.slot ≠ e.slot), copy := none, orphaned := false,
                awaited := if s.re.awaited.any (·.slot = e.slot) then none else s.re.awaited }
        au := { s.au.withFault (a.failure kind) with
          causes := (s.au.withFault (a.failure kind)).causes ||| 0x02#8 } }) ∧
    (s.re.orphaned = true →
      (∀ word, exec (.memoryAnswer a.tag (.ok word)) s = .next { s.freed with re := { s.re with orphaned := false } }) ∧
      (a.FailsBy cmd kind → exec cmd s = .next { s.freed with
        re := { s.re with orphaned := false }, au := s.au.withFault (a.failure kind) }))

/-- The stamp writer's answers: OK to word 1 asks for word 0; OK to word 0 removes the written record, and a failure of
either drops it, the next head's word 1 being requested; an answer to a discarded access ends it and drops nothing
(R115, R116, R117, R119). ACCESS_TIMEOUT is taken at any clock count (notes/assumptions/4.md). -/
def Obligations.StampWriterWritesOrDropsItsRecord : Prop :=
  ∀ (s : State) (a : AwaitingAccess), s.mp.awaiting = some a → a.access.client = .sw →
    (s.sw.discarded = true →
      (∀ word, exec (.memoryAnswer a.tag (.ok word)) s = .next { s.freed with sw := { s.sw with discarded := false } }) ∧
      (∀ c kind, a.FailsBy c kind → exec c s = .next { s.freed with
        sw := { s.sw with discarded := false }, au := s.au.withFault (a.failure kind) })) ∧
    (s.sw.discarded = false → s.sw.queue ≠ [] →
      (s.sw.step = .word1 → ∀ word, exec (.memoryAnswer a.tag (.ok word)) s = .next { s.freed with
        sw := { s.sw with step := .word0, stage := .requested } }) ∧
      (s.sw.step = .word0 → ∀ word, exec (.memoryAnswer a.tag (.ok word)) s = .next { s.freed with
        sw := s.sw.withoutHead }) ∧
      (∀ c kind, a.FailsBy c kind → exec c s = .next { s.freed with
        sw := s.sw.withoutHead, au := s.au.withFault (a.failure kind) }))

/-! ### The request path (chapter 5) -/

/-- An offered request joins the tail of a port's queue, behind the offers held off before it, while there is room for
them all; else it is held off behind them, and of those as many join as there is room for. When requests leave a full
queue, as many of the offers held off, oldest first, join it in the same event, at any command but a full reset and at an
idle clock, and none is lost (R78). That the removal's own event accepts them, and that they wait in order, is
notes/assumptions/7.md. -/
def Obligations.OffersAreAcceptedWhileThereIsRoom : Prop :=
  ∀ (s : State) (p : PortId),
    let q := s.port p
    (∀ r,
      (q.queue.length + q.offers.length < 4 → exec (.requestAccept p r) s =
        .next (s.setPort p { q with queue := q.queue ++ q.offers ++ [r], offers := [] })) ∧
      (4 ≤ q.queue.length + q.offers.length → exec (.requestAccept p r) s = .next (s.setPort p { q with
        queue := q.queue ++ q.offers.take (4 - q.queue.length)
        offers := q.offers.drop (4 - q.queue.length) ++ [r] }))) ∧
    (q.queue.length = 4 →
      (∀ c t, (∀ b, c ≠ .fullReset b) → exec c s = .next t → ∃ given, t.given p = s.given p ++ given ∧
        (t.port p).queue = q.queue.drop given.length ++ q.offers.take given.length ∧
        (t.port p).offers = q.offers.drop given.length ++ c.offersAt p) ∧
      (∀ t, s.pending = [] → step s = .next t → ∃ given, t.given p = s.given p ++ given ∧
        (t.port p).queue = q.queue.drop given.length ++ q.offers.take given.length ∧
        (t.port p).offers = q.offers.drop given.length))

/-- A host write of a logical range, at its first or its fresh translation, row by row of the host table: to the live
bank in DEFINED; staged into the shadow bank in ACTIVE, its segment dirty and the phase STAGING; parked when the
segment has an entry, which is awaited and promoted; refused in HELD and FAULTED (R23, R25, R64, R65, R66, R86, R91).
An offer held off is accepted as a refused request leaves (notes/assumptions/7.md). -/
def Obligations.HostWritesAreTranslated : Prop :=
  ∀ (s : State) (c : Instr) (r : Request) (k : Slot) (offset : Nat) (d : Descriptor), s.HostTranslates c r →
    opIsWrite r.op = true → s.classify r.addr = .logical k offset → (s.window k).desc = some d →
    let w := s.window k
    let e : Entry := { slot := k, seg := d.segmentOf offset }
    (w.life = .defined → exec c s = .next (s.asking .host (d.bankBase w.live + BitVec.ofNat 22 offset) (some k) false)) ∧
    (w.life = .active → e ∉ s.re.queue → exec c s = .next ((s.setWindow k { w with
      dirty := w.dirty ||| BitVec.twoPow 32 e.seg.val, phase := .staging }).asking .host
        (d.bankBase w.live.other + BitVec.ofNat 22 offset) (some k) true)) ∧
    (w.life = .active → e ∈ s.re.queue → ∃ queue, exec c s = .next { s with
        hp := { s.hp with service := .parked }, re := { s.re with awaited := some e, queue := queue } } ∧
      (∀ h rest, s.re.copy ≠ none → s.re.queue = h :: rest →
        queue = if h = e then s.re.queue else h :: e :: rest.erase e) ∧
      (s.re.copy = none → queue = e :: s.re.queue.erase e)) ∧
    (w.life = .held → exec c s = .next (s.refused .host r.addr .held)) ∧
    (w.life = .faulted → exec c s = .next (s.refused .host r.addr .faulted))

/-- The other rows of the host table: reads of a logical range by lifecycle, host view and resync entry; the concealed
region open in DEFINED and refused in service; stamp pairs read and not written; other addresses passed. A write
with no lane is answered OK without translation; a parked write whose entry is still awaited stays parked (R78, R84,
R85, R87, R91, R92). An offer held off is accepted as a request leaves (notes/assumptions/7.md). With nothing to take,
nothing changes (5.md). -/
def Obligations.HostReadsAndOtherAccessesAreTranslated : Prop :=
  ∀ (s : State) (c : Instr) (r : Request),
    (s.HostTranslates c r →
      (∀ k offset d, opIsWrite r.op = false → s.classify r.addr = .logical k offset → (s.window k).desc = some d →
        let w := s.window k
        exec c s = .next (s.asking .host (if (w.life = .active ∨ w.life = .held) ∧ d.hostView = .shadow ∧
            { slot := k, seg := d.segmentOf offset } ∉ s.re.queue then
            d.bankBase w.live.other + BitVec.ofNat 22 offset
          else d.bankBase w.live + BitVec.ofNat 22 offset) (some k) false)) ∧
      (∀ k, s.classify r.addr = .concealed k →
        ((s.window k).life = .defined → exec c s = .next (s.asking .host r.addr (some k) false)) ∧
        ((s.window k).life = .active ∨ (s.window k).life = .held ∨ (s.window k).life = .faulted →
          exec c s = .next (s.refused .host r.addr .concealed))) ∧
      (∀ k, s.classify r.addr = .stampPair k →
        exec c s = .next (if opIsWrite r.op then s.refused .host r.addr .stampWrite
          else s.asking .host r.addr (some k) false)) ∧
      (s.classify r.addr = .elsewhere → exec c s = .next (s.asking .host r.addr none false))) ∧
    (s.hp.service = .idle → s.hp.queue.head? = some r → opNoLane r.op = true →
      exec .hostTakeInService s = .next (s.servedOk .host 0)) ∧
    (s.hp.service = .idle → s.hp.queue = [] → exec .hostTakeInService s = .next s) ∧
    (s.hp.service ≠ .idle → exec .hostTakeInService s = .next s) ∧
    (s.hp.service ≠ .parked ∨ s.re.awaited ≠ none → exec .parkedWriteTranslateAfresh s = .next s)

/-- The consumer table: reads of a logical range to the live bank, or in view SAFE of a window in service to the safe
region or, with none, answered with the fill word at once; writes of it refused; the concealed region, stamp pairs and
other addresses as for the host (R78, R81, R88, R89, R90, R91). An offer held off is accepted as a request leaves
(notes/assumptions/7.md). At a port that is busy or has no request nothing changes (5.md). -/
def Obligations.ConsumerRequestsAreTranslated : Prop :=
  ∀ s : State,
    (s.cp.service ≠ .idle ∨ s.cp.queue = [] → exec .consumerTakeInService s = .next s) ∧
    ∀ (r : Request) (rest : List Request), s.cp.service = .idle → s.cp.queue = r :: rest →
    let done := fun t : State => exec .consumerTakeInService s = .next t
    (opNoLane r.op = true → done (s.servedOk .consumer 0)) ∧
    (opNoLane r.op = false →
      (∀ k offset d, s.classify r.addr = .logical k offset → (s.window k).desc = some d →
        let w := s.window k
        (opIsWrite r.op = true → done (s.refused .consumer r.addr .consumerWrite)) ∧
        (opIsWrite r.op = false →
          (w.life = .defined ∨ (s.tu.entry k).view = .live →
            done (s.asking .consumer (d.bankBase w.live + BitVec.ofNat 22 offset) (some k) false)) ∧
          (w.life = .active ∨ w.life = .held ∨ w.life = .faulted → (s.tu.entry k).view = .safe →
            (∀ base, d.safeBase = some base → done (s.asking .consumer (base + BitVec.ofNat 22 offset) (some k) false)) ∧
            (d.safeBase = none → done (s.servedOk .consumer d.fillWord))))) ∧
      (∀ k, s.classify r.addr = .concealed k →
        ((s.window k).life = .defined → done (s.asking .consumer r.addr (some k) false)) ∧
        ((s.window k).life = .active ∨ (s.window k).life = .held ∨ (s.window k).life = .faulted →
          done (s.refused .consumer r.addr .concealed))) ∧
      (∀ k, s.classify r.addr = .stampPair k → done (if opIsWrite r.op then s.refused .consumer r.addr .stampWrite
        else s.asking .consumer r.addr (some k) false)) ∧
      (s.classify r.addr = .elsewhere → done (s.asking .consumer r.addr none false)))

/-- Under the laws of the window table an address has the class of the one claimed region it lies in, and is elsewhere
when it lies in none (R5). -/
def Obligations.AddressHasOneClass : Prop :=
  ∀ s : State, WindowsLawful s → NoOverlap s → ∀ a : Addr,
    (∀ k d, (s.window k).desc = some d →
      (d.logicalRange.holds a = true → s.classify a = .logical k (a.toNat - d.logicalBase.toNat)) ∧
      (∀ region ∈ d.concealed, region.holds a = true → s.classify a = .concealed k) ∧
      (∀ region ∈ d.stampRange, region.holds a = true → s.classify a = .stampPair k)) ∧
    ((∀ k d, (s.window k).desc = some d → ∀ region ∈ d.claimed, region.holds a = false) → s.classify a = .elsewhere)

/-- Every accepted request is answered exactly once and in acceptance order, at both ports: in any command but a full
reset, and at an idle clock, the responses given are as many as the requests that leave the head of the queue; those
that join at the tail are the offers held off, in order, and then the one REQUEST_ACCEPT offers at that port; and an
offer is held off only while the queue is full. An idle clock answers nothing, or the head request with FAULT, at its
timeout (R78, R79, R106). The responses given are the model's record (notes/assumptions/13.md), the offers held off
those of 7.md, and the clock that of 2.md. -/
def Obligations.EachRequestIsAnsweredOnceInOrder : Prop :=
  ∀ (s t : State) (p : PortId),
    (∀ c : Instr, (∀ b, c ≠ .fullReset b) → exec c s = .next t → PortMoves s t p (c.offersAt p)) ∧
    (s.pending = [] → step s = .next t → PortMoves s t p [] ∧
      (t.given p = s.given p ∨ t.given p = s.given p ++ [{ code := .fault, data := 0 }]))

/-! ### The laws every step keeps -/

/-- The state after power-up meets every law of the bridge. -/
def Obligations.ResetMeetsEveryLaw : Prop := State.reset.Lawful

/-- Every step keeps the laws of the window records: a valid descriptor exactly outside UNUSED, CLEAN exactly with an
empty dirty set and always outside ACTIVE and HELD, the counts in range, boundaries waiting only in service (R2, R9,
R18, R22). The laws of the resync queue, whose entries are only of windows in service, hold before the step; that they
are kept too is ResyncQueueStaysLawful. Waiting boundaries are the inbox of notes/assumptions/14.md. -/
def Obligations.WindowRecordsStayLawful : Prop :=
  ∀ s t : State, WindowsLawful s → QueueLawful s → step s = .next t → WindowsLawful t

/-- Every step keeps the laws of the resync queue: no duplicates, entries only of ACTIVE or HELD windows, no segment both
queued and dirty, the in-flight entry at the head, the awaited entry in the queue (R9, R24, R56, R59). -/
def Obligations.ResyncQueueStaysLawful : Prop := Kept fun s => WindowsLawful s ∧ QueueLawful s

/-- Every step keeps the laws of the ports and of the memory port: one access out, that of the client that waits for
it; at most 4 requests a port, and an offer held off only while there are 4; the host parked while an entry is
awaited; the passover count at most 16 (R59, R78, R80, R99, R102, R106). That an offer is accepted as a request leaves
is notes/assumptions/7.md. -/
def Obligations.OneAccessIsOut : Prop :=
  Kept fun s => WindowsLawful s ∧ QueueLawful s ∧ PortsLawful s ∧ MemoryLawful s

/-- Every step keeps the laws of the period timer, of the two line filters and of the watch (R124, R132, R135, R143). -/
def Obligations.BoundarySourcesStayLawful : Prop := Kept BoundaryLawful

/-- Every step keeps the ties between the trip state and the view table (R143). -/
def Obligations.ViewsStayTiedToTheTripState : Prop := Kept fun s => WindowsLawful s ∧ QueueLawful s ∧ ViewsLawful s

/-- Every step keeps every law of the bridge: those above, and with them the overlap law of the claimed regions, the
stamp queue with at most one record a slot, and the fault list of at most 4 (R4, R113, R156). -/
def Obligations.EveryStepKeepsEveryLaw : Prop := Kept State.Lawful

end
end

