-- ==== Sys2Proof/Laws/State.lean ====
section
/-! SUPPORT. One lemma per field per update of the state, so that no later proof unfolds a record update; and what each
block operation leaves of its own record. -/
namespace Sys2Proof.Machine

/-! ### Window records -/

@[simp] theorem window_setWindow_self (s : State) (k : Slot) (w : Window) : (s.setWindow k w).window k = w := by
  simp [State.window, State.setWindow]

theorem window_setWindow (s : State) (j k : Slot) (w : Window) :
    (s.setWindow k w).window j = if j = k then w else s.window j := by
  by_cases h : j = k
  · subst h; simp
  · have h' : k.val ≠ j.val := fun e => h (Fin.ext e.symm)
    simp [State.window, State.setWindow, h, h']

theorem window_setWindow_ne (s : State) {j k : Slot} (w : Window) (h : j ≠ k) :
    (s.setWindow k w).window j = s.window j := by
  rw [window_setWindow, if_neg h]

@[simp] theorem window_map (s : State) (f : Window → Window) (k : Slot) :
    ({ s with windows := s.windows.map f } : State).window k = f (s.window k) := by
  simp [State.window]

@[simp] theorem window_deliver (s : State) (src : Source) (k : Slot) :
    (s.deliver src).window k = (s.window k).receive { source := src, seq := (s.bu.count src).seq src } := by
  simp [State.window, State.deliver]

theorem window_congr {s t : State} (h : t.windows = s.windows) (k : Slot) : t.window k = s.window k := by
  simp [State.window, h]


/-! ### setWindow -/

@[simp] theorem re_setWindow (s : State) (k : Slot) (w : Window) : (s.setWindow k w).re = s.re := rfl
@[simp] theorem sw_setWindow (s : State) (k : Slot) (w : Window) : (s.setWindow k w).sw = s.sw := rfl
@[simp] theorem hp_setWindow (s : State) (k : Slot) (w : Window) : (s.setWindow k w).hp = s.hp := rfl
@[simp] theorem cp_setWindow (s : State) (k : Slot) (w : Window) : (s.setWindow k w).cp = s.cp := rfl
@[simp] theorem mp_setWindow (s : State) (k : Slot) (w : Window) : (s.setWindow k w).mp = s.mp := rfl
@[simp] theorem bu_setWindow (s : State) (k : Slot) (w : Window) : (s.setWindow k w).bu = s.bu := rfl
@[simp] theorem tu_setWindow (s : State) (k : Slot) (w : Window) : (s.setWindow k w).tu = s.tu := rfl
@[simp] theorem au_setWindow (s : State) (k : Slot) (w : Window) : (s.setWindow k w).au = s.au := rfl
@[simp] theorem ml_setWindow (s : State) (k : Slot) (w : Window) : (s.setWindow k w).ml = s.ml := rfl
@[simp] theorem pins_setWindow (s : State) (k : Slot) (w : Window) : (s.setWindow k w).pins = s.pins := rfl
@[simp] theorem out_setWindow (s : State) (k : Slot) (w : Window) : (s.setWindow k w).out = s.out := rfl
@[simp] theorem choices_setWindow (s : State) (k : Slot) (w : Window) : (s.setWindow k w).choices = s.choices := rfl
@[simp] theorem pending_setWindow (s : State) (k : Slot) (w : Window) : (s.setWindow k w).pending = s.pending := rfl

/-! ### raise -/

@[simp] theorem windows_raise (s : State) (c : Cause) : (s.raise c).windows = s.windows := rfl
@[simp] theorem re_raise (s : State) (c : Cause) : (s.raise c).re = s.re := rfl
@[simp] theorem sw_raise (s : State) (c : Cause) : (s.raise c).sw = s.sw := rfl
@[simp] theorem hp_raise (s : State) (c : Cause) : (s.raise c).hp = s.hp := rfl
@[simp] theorem cp_raise (s : State) (c : Cause) : (s.raise c).cp = s.cp := rfl
@[simp] theorem mp_raise (s : State) (c : Cause) : (s.raise c).mp = s.mp := rfl
@[simp] theorem bu_raise (s : State) (c : Cause) : (s.raise c).bu = s.bu := rfl
@[simp] theorem tu_raise (s : State) (c : Cause) : (s.raise c).tu = s.tu := rfl
@[simp] theorem ml_raise (s : State) (c : Cause) : (s.raise c).ml = s.ml := rfl
@[simp] theorem pins_raise (s : State) (c : Cause) : (s.raise c).pins = s.pins := rfl
@[simp] theorem out_raise (s : State) (c : Cause) : (s.raise c).out = s.out := rfl
@[simp] theorem choices_raise (s : State) (c : Cause) : (s.raise c).choices = s.choices := rfl
@[simp] theorem pending_raise (s : State) (c : Cause) : (s.raise c).pending = s.pending := rfl

/-! ### deliver -/

@[simp] theorem re_deliver (s : State) (src : Source) : (s.deliver src).re = s.re := rfl
@[simp] theorem sw_deliver (s : State) (src : Source) : (s.deliver src).sw = s.sw := rfl
@[simp] theorem hp_deliver (s : State) (src : Source) : (s.deliver src).hp = s.hp := rfl
@[simp] theorem cp_deliver (s : State) (src : Source) : (s.deliver src).cp = s.cp := rfl
@[simp] theorem mp_deliver (s : State) (src : Source) : (s.deliver src).mp = s.mp := rfl
@[simp] theorem tu_deliver (s : State) (src : Source) : (s.deliver src).tu = s.tu := rfl
@[simp] theorem au_deliver (s : State) (src : Source) : (s.deliver src).au = s.au := rfl
@[simp] theorem ml_deliver (s : State) (src : Source) : (s.deliver src).ml = s.ml := rfl
@[simp] theorem pins_deliver (s : State) (src : Source) : (s.deliver src).pins = s.pins := rfl
@[simp] theorem out_deliver (s : State) (src : Source) : (s.deliver src).out = s.out := rfl
@[simp] theorem choices_deliver (s : State) (src : Source) : (s.deliver src).choices = s.choices := rfl
@[simp] theorem pending_deliver (s : State) (src : Source) : (s.deliver src).pending = s.pending := rfl

/-! ### setPort -/

@[simp] theorem windows_setPort (s : State) (p : PortId) (q : Port) : (s.setPort p q).windows = s.windows := by cases p <;> rfl
@[simp] theorem re_setPort (s : State) (p : PortId) (q : Port) : (s.setPort p q).re = s.re := by cases p <;> rfl
@[simp] theorem sw_setPort (s : State) (p : PortId) (q : Port) : (s.setPort p q).sw = s.sw := by cases p <;> rfl
@[simp] theorem mp_setPort (s : State) (p : PortId) (q : Port) : (s.setPort p q).mp = s.mp := by cases p <;> rfl
@[simp] theorem bu_setPort (s : State) (p : PortId) (q : Port) : (s.setPort p q).bu = s.bu := by cases p <;> rfl
@[simp] theorem tu_setPort (s : State) (p : PortId) (q : Port) : (s.setPort p q).tu = s.tu := by cases p <;> rfl
@[simp] theorem au_setPort (s : State) (p : PortId) (q : Port) : (s.setPort p q).au = s.au := by cases p <;> rfl
@[simp] theorem ml_setPort (s : State) (p : PortId) (q : Port) : (s.setPort p q).ml = s.ml := by cases p <;> rfl
@[simp] theorem pins_setPort (s : State) (p : PortId) (q : Port) : (s.setPort p q).pins = s.pins := by cases p <;> rfl
@[simp] theorem out_setPort (s : State) (p : PortId) (q : Port) : (s.setPort p q).out = s.out := by cases p <;> rfl
@[simp] theorem choices_setPort (s : State) (p : PortId) (q : Port) : (s.setPort p q).choices = s.choices := by cases p <;> rfl
@[simp] theorem pending_setPort (s : State) (p : PortId) (q : Port) : (s.setPort p q).pending = s.pending := by cases p <;> rfl

/-! ### request -/

@[simp] theorem windows_request (s : State) (p : PortId) (t : Translated) : (s.request p t).windows = s.windows := by cases p <;> rfl
@[simp] theorem re_request (s : State) (p : PortId) (t : Translated) : (s.request p t).re = s.re := by cases p <;> rfl
@[simp] theorem sw_request (s : State) (p : PortId) (t : Translated) : (s.request p t).sw = s.sw := by cases p <;> rfl
@[simp] theorem mp_request (s : State) (p : PortId) (t : Translated) : (s.request p t).mp = s.mp := by cases p <;> rfl
@[simp] theorem bu_request (s : State) (p : PortId) (t : Translated) : (s.request p t).bu = s.bu := by cases p <;> rfl
@[simp] theorem tu_request (s : State) (p : PortId) (t : Translated) : (s.request p t).tu = s.tu := by cases p <;> rfl
@[simp] theorem au_request (s : State) (p : PortId) (t : Translated) : (s.request p t).au = s.au := by cases p <;> rfl
@[simp] theorem ml_request (s : State) (p : PortId) (t : Translated) : (s.request p t).ml = s.ml := by cases p <;> rfl
@[simp] theorem pins_request (s : State) (p : PortId) (t : Translated) : (s.request p t).pins = s.pins := by cases p <;> rfl
@[simp] theorem out_request (s : State) (p : PortId) (t : Translated) : (s.request p t).out = s.out := by cases p <;> rfl
@[simp] theorem choices_request (s : State) (p : PortId) (t : Translated) : (s.request p t).choices = s.choices := by cases p <;> rfl
@[simp] theorem pending_request (s : State) (p : PortId) (t : Translated) : (s.request p t).pending = s.pending := by cases p <;> rfl

/-! ### answerHead -/

@[simp] theorem windows_answerHead (s : State) (p : PortId) (r : PortResponse) : (s.answerHead p r).windows = s.windows := by cases p <;> rfl
@[simp] theorem re_answerHead (s : State) (p : PortId) (r : PortResponse) : (s.answerHead p r).re = s.re := by cases p <;> rfl
@[simp] theorem sw_answerHead (s : State) (p : PortId) (r : PortResponse) : (s.answerHead p r).sw = s.sw := by cases p <;> rfl
@[simp] theorem mp_answerHead (s : State) (p : PortId) (r : PortResponse) : (s.answerHead p r).mp = s.mp := by cases p <;> rfl
@[simp] theorem bu_answerHead (s : State) (p : PortId) (r : PortResponse) : (s.answerHead p r).bu = s.bu := by cases p <;> rfl
@[simp] theorem tu_answerHead (s : State) (p : PortId) (r : PortResponse) : (s.answerHead p r).tu = s.tu := by cases p <;> rfl
@[simp] theorem au_answerHead (s : State) (p : PortId) (r : PortResponse) : (s.answerHead p r).au = s.au := by cases p <;> rfl
@[simp] theorem ml_answerHead (s : State) (p : PortId) (r : PortResponse) : (s.answerHead p r).ml = s.ml := by cases p <;> rfl
@[simp] theorem pins_answerHead (s : State) (p : PortId) (r : PortResponse) : (s.answerHead p r).pins = s.pins := by cases p <;> rfl
@[simp] theorem choices_answerHead (s : State) (p : PortId) (r : PortResponse) : (s.answerHead p r).choices = s.choices := by cases p <;> rfl
@[simp] theorem pending_answerHead (s : State) (p : PortId) (r : PortResponse) : (s.answerHead p r).pending = s.pending := by cases p <;> rfl

/-! ### refuseHead -/

@[simp] theorem windows_refuseHead (s : State) (p : PortId) (a : Addr) (r : Reason) : (s.refuseHead p a r).windows = s.windows := by cases p <;> rfl
@[simp] theorem re_refuseHead (s : State) (p : PortId) (a : Addr) (r : Reason) : (s.refuseHead p a r).re = s.re := by cases p <;> rfl
@[simp] theorem sw_refuseHead (s : State) (p : PortId) (a : Addr) (r : Reason) : (s.refuseHead p a r).sw = s.sw := by cases p <;> rfl
@[simp] theorem mp_refuseHead (s : State) (p : PortId) (a : Addr) (r : Reason) : (s.refuseHead p a r).mp = s.mp := by cases p <;> rfl
@[simp] theorem bu_refuseHead (s : State) (p : PortId) (a : Addr) (r : Reason) : (s.refuseHead p a r).bu = s.bu := by cases p <;> rfl
@[simp] theorem tu_refuseHead (s : State) (p : PortId) (a : Addr) (r : Reason) : (s.refuseHead p a r).tu = s.tu := by cases p <;> rfl
@[simp] theorem ml_refuseHead (s : State) (p : PortId) (a : Addr) (r : Reason) : (s.refuseHead p a r).ml = s.ml := by cases p <;> rfl
@[simp] theorem pins_refuseHead (s : State) (p : PortId) (a : Addr) (r : Reason) : (s.refuseHead p a r).pins = s.pins := by cases p <;> rfl
@[simp] theorem choices_refuseHead (s : State) (p : PortId) (a : Addr) (r : Reason) : (s.refuseHead p a r).choices = s.choices := by cases p <;> rfl
@[simp] theorem pending_refuseHead (s : State) (p : PortId) (a : Addr) (r : Reason) : (s.refuseHead p a r).pending = s.pending := by cases p <;> rfl

/-! ### failCopy -/

@[simp] theorem sw_failCopy (s : State) (k : Slot) : (s.failCopy k).sw = s.sw := rfl
@[simp] theorem hp_failCopy (s : State) (k : Slot) : (s.failCopy k).hp = s.hp := rfl
@[simp] theorem cp_failCopy (s : State) (k : Slot) : (s.failCopy k).cp = s.cp := rfl
@[simp] theorem mp_failCopy (s : State) (k : Slot) : (s.failCopy k).mp = s.mp := rfl
@[simp] theorem bu_failCopy (s : State) (k : Slot) : (s.failCopy k).bu = s.bu := rfl
@[simp] theorem tu_failCopy (s : State) (k : Slot) : (s.failCopy k).tu = s.tu := rfl
@[simp] theorem ml_failCopy (s : State) (k : Slot) : (s.failCopy k).ml = s.ml := rfl
@[simp] theorem pins_failCopy (s : State) (k : Slot) : (s.failCopy k).pins = s.pins := rfl
@[simp] theorem out_failCopy (s : State) (k : Slot) : (s.failCopy k).out = s.out := rfl
@[simp] theorem choices_failCopy (s : State) (k : Slot) : (s.failCopy k).choices = s.choices := rfl
@[simp] theorem pending_failCopy (s : State) (k : Slot) : (s.failCopy k).pending = s.pending := rfl

/-! ### markGranted -/

@[simp] theorem windows_markGranted (s : State) (c : Client) : (s.markGranted c).windows = s.windows := by cases c <;> rfl
@[simp] theorem mp_markGranted (s : State) (c : Client) : (s.markGranted c).mp = s.mp := by cases c <;> rfl
@[simp] theorem bu_markGranted (s : State) (c : Client) : (s.markGranted c).bu = s.bu := by cases c <;> rfl
@[simp] theorem tu_markGranted (s : State) (c : Client) : (s.markGranted c).tu = s.tu := by cases c <;> rfl
@[simp] theorem au_markGranted (s : State) (c : Client) : (s.markGranted c).au = s.au := by cases c <;> rfl
@[simp] theorem ml_markGranted (s : State) (c : Client) : (s.markGranted c).ml = s.ml := by cases c <;> rfl
@[simp] theorem pins_markGranted (s : State) (c : Client) : (s.markGranted c).pins = s.pins := by cases c <;> rfl
@[simp] theorem out_markGranted (s : State) (c : Client) : (s.markGranted c).out = s.out := by cases c <;> rfl
@[simp] theorem choices_markGranted (s : State) (c : Client) : (s.markGranted c).choices = s.choices := by cases c <;> rfl
@[simp] theorem pending_markGranted (s : State) (c : Client) : (s.markGranted c).pending = s.pending := by cases c <;> rfl

/-! ### issue -/

@[simp] theorem windows_issue (s : State) (a : Access) (n : Nat) : (s.issue a n).windows = s.windows := by cases h : a.client <;> simp [State.issue, State.markGranted, h]
@[simp] theorem bu_issue (s : State) (a : Access) (n : Nat) : (s.issue a n).bu = s.bu := by cases h : a.client <;> simp [State.issue, State.markGranted, h]
@[simp] theorem tu_issue (s : State) (a : Access) (n : Nat) : (s.issue a n).tu = s.tu := by cases h : a.client <;> simp [State.issue, State.markGranted, h]
@[simp] theorem au_issue (s : State) (a : Access) (n : Nat) : (s.issue a n).au = s.au := by cases h : a.client <;> simp [State.issue, State.markGranted, h]
@[simp] theorem ml_issue (s : State) (a : Access) (n : Nat) : (s.issue a n).ml = s.ml := by cases h : a.client <;> simp [State.issue, State.markGranted, h]
@[simp] theorem pins_issue (s : State) (a : Access) (n : Nat) : (s.issue a n).pins = s.pins := by cases h : a.client <;> simp [State.issue, State.markGranted, h]
@[simp] theorem choices_issue (s : State) (a : Access) (n : Nat) : (s.issue a n).choices = s.choices := by cases h : a.client <;> simp [State.issue, State.markGranted, h]
@[simp] theorem pending_issue (s : State) (a : Access) (n : Nat) : (s.issue a n).pending = s.pending := by cases h : a.client <;> simp [State.issue, State.markGranted, h]

/-! ### flip -/

@[simp] theorem hp_flip (s : State) (k : Slot) (d : Descriptor) (n : BitVec 32) : (s.flip k d n).hp = s.hp := rfl
@[simp] theorem cp_flip (s : State) (k : Slot) (d : Descriptor) (n : BitVec 32) : (s.flip k d n).cp = s.cp := rfl
@[simp] theorem mp_flip (s : State) (k : Slot) (d : Descriptor) (n : BitVec 32) : (s.flip k d n).mp = s.mp := rfl
@[simp] theorem bu_flip (s : State) (k : Slot) (d : Descriptor) (n : BitVec 32) : (s.flip k d n).bu = s.bu := rfl
@[simp] theorem tu_flip (s : State) (k : Slot) (d : Descriptor) (n : BitVec 32) : (s.flip k d n).tu = s.tu := rfl
@[simp] theorem au_flip (s : State) (k : Slot) (d : Descriptor) (n : BitVec 32) : (s.flip k d n).au = s.au := rfl
@[simp] theorem ml_flip (s : State) (k : Slot) (d : Descriptor) (n : BitVec 32) : (s.flip k d n).ml = s.ml := rfl
@[simp] theorem pins_flip (s : State) (k : Slot) (d : Descriptor) (n : BitVec 32) : (s.flip k d n).pins = s.pins := rfl
@[simp] theorem out_flip (s : State) (k : Slot) (d : Descriptor) (n : BitVec 32) : (s.flip k d n).out = s.out := rfl
@[simp] theorem choices_flip (s : State) (k : Slot) (d : Descriptor) (n : BitVec 32) : (s.flip k d n).choices = s.choices := rfl
@[simp] theorem pending_flip (s : State) (k : Slot) (d : Descriptor) (n : BitVec 32) : (s.flip k d n).pending = s.pending := rfl

/-! ### countLate -/

@[simp] theorem re_countLate (s : State) (k : Slot) : (s.countLate k).re = s.re := rfl
@[simp] theorem sw_countLate (s : State) (k : Slot) : (s.countLate k).sw = s.sw := rfl
@[simp] theorem hp_countLate (s : State) (k : Slot) : (s.countLate k).hp = s.hp := rfl
@[simp] theorem cp_countLate (s : State) (k : Slot) : (s.countLate k).cp = s.cp := rfl
@[simp] theorem mp_countLate (s : State) (k : Slot) : (s.countLate k).mp = s.mp := rfl
@[simp] theorem bu_countLate (s : State) (k : Slot) : (s.countLate k).bu = s.bu := rfl
@[simp] theorem tu_countLate (s : State) (k : Slot) : (s.countLate k).tu = s.tu := rfl
@[simp] theorem ml_countLate (s : State) (k : Slot) : (s.countLate k).ml = s.ml := rfl
@[simp] theorem pins_countLate (s : State) (k : Slot) : (s.countLate k).pins = s.pins := rfl
@[simp] theorem out_countLate (s : State) (k : Slot) : (s.countLate k).out = s.out := rfl
@[simp] theorem choices_countLate (s : State) (k : Slot) : (s.countLate k).choices = s.choices := rfl
@[simp] theorem pending_countLate (s : State) (k : Slot) : (s.countLate k).pending = s.pending := rfl

/-! ### restore -/

@[simp] theorem windows_restore (s : State) (k : Slot) : (s.restore k).windows = s.windows := by
  unfold State.restore; split <;> simp
@[simp] theorem re_restore (s : State) (k : Slot) : (s.restore k).re = s.re := by
  unfold State.restore; split <;> simp
@[simp] theorem sw_restore (s : State) (k : Slot) : (s.restore k).sw = s.sw := by
  unfold State.restore; split <;> simp
@[simp] theorem hp_restore (s : State) (k : Slot) : (s.restore k).hp = s.hp := by
  unfold State.restore; split <;> simp
@[simp] theorem cp_restore (s : State) (k : Slot) : (s.restore k).cp = s.cp := by
  unfold State.restore; split <;> simp
@[simp] theorem mp_restore (s : State) (k : Slot) : (s.restore k).mp = s.mp := by
  unfold State.restore; split <;> simp
@[simp] theorem bu_restore (s : State) (k : Slot) : (s.restore k).bu = s.bu := by
  unfold State.restore; split <;> simp
@[simp] theorem au_restore (s : State) (k : Slot) : (s.restore k).au = s.au := by
  unfold State.restore; split <;> simp
@[simp] theorem ml_restore (s : State) (k : Slot) : (s.restore k).ml = s.ml := by
  unfold State.restore; split <;> simp
@[simp] theorem pins_restore (s : State) (k : Slot) : (s.restore k).pins = s.pins := by
  unfold State.restore; split <;> simp
@[simp] theorem out_restore (s : State) (k : Slot) : (s.restore k).out = s.out := by
  unfold State.restore; split <;> simp
@[simp] theorem choices_restore (s : State) (k : Slot) : (s.restore k).choices = s.choices := by
  unfold State.restore; split <;> simp
@[simp] theorem pending_restore (s : State) (k : Slot) : (s.restore k).pending = s.pending := by
  unfold State.restore; split <;> simp

/-! ### tripDemand -/

@[simp] theorem windows_tripDemand (s : State) (r : TripReason) : (s.tripDemand r).windows = s.windows := by
  unfold State.tripDemand; split <;> simp
@[simp] theorem re_tripDemand (s : State) (r : TripReason) : (s.tripDemand r).re = s.re := by
  unfold State.tripDemand; split <;> simp
@[simp] theorem sw_tripDemand (s : State) (r : TripReason) : (s.tripDemand r).sw = s.sw := by
  unfold State.tripDemand; split <;> simp
@[simp] theorem hp_tripDemand (s : State) (r : TripReason) : (s.tripDemand r).hp = s.hp := by
  unfold State.tripDemand; split <;> simp
@[simp] theorem cp_tripDemand (s : State) (r : TripReason) : (s.tripDemand r).cp = s.cp := by
  unfold State.tripDemand; split <;> simp
@[simp] theorem mp_tripDemand (s : State) (r : TripReason) : (s.tripDemand r).mp = s.mp := by
  unfold State.tripDemand; split <;> simp
@[simp] theorem bu_tripDemand (s : State) (r : TripReason) : (s.tripDemand r).bu = s.bu := by
  unfold State.tripDemand; split <;> simp
@[simp] theorem ml_tripDemand (s : State) (r : TripReason) : (s.tripDemand r).ml = s.ml := by
  unfold State.tripDemand; split <;> simp
@[simp] theorem pins_tripDemand (s : State) (r : TripReason) : (s.tripDemand r).pins = s.pins := by
  unfold State.tripDemand; split <;> simp
@[simp] theorem out_tripDemand (s : State) (r : TripReason) : (s.tripDemand r).out = s.out := by
  unfold State.tripDemand; split <;> simp
@[simp] theorem choices_tripDemand (s : State) (r : TripReason) : (s.tripDemand r).choices = s.choices := by
  unfold State.tripDemand; split <;> simp
@[simp] theorem pending_tripDemand (s : State) (r : TripReason) : (s.tripDemand r).pending = s.pending := by
  unfold State.tripDemand; split <;> simp

/-! ### bxEdge -/

@[simp] theorem re_bxEdge (s : State) : (s.bxEdge).re = s.re := by
  unfold State.bxEdge; split <;> simp
@[simp] theorem sw_bxEdge (s : State) : (s.bxEdge).sw = s.sw := by
  unfold State.bxEdge; split <;> simp
@[simp] theorem hp_bxEdge (s : State) : (s.bxEdge).hp = s.hp := by
  unfold State.bxEdge; split <;> simp
@[simp] theorem cp_bxEdge (s : State) : (s.bxEdge).cp = s.cp := by
  unfold State.bxEdge; split <;> simp
@[simp] theorem mp_bxEdge (s : State) : (s.bxEdge).mp = s.mp := by
  unfold State.bxEdge; split <;> simp
@[simp] theorem tu_bxEdge (s : State) : (s.bxEdge).tu = s.tu := by
  unfold State.bxEdge; split <;> simp
@[simp] theorem ml_bxEdge (s : State) : (s.bxEdge).ml = s.ml := by
  unfold State.bxEdge; split <;> simp
@[simp] theorem pins_bxEdge (s : State) : (s.bxEdge).pins = s.pins := by
  unfold State.bxEdge; split <;> simp
@[simp] theorem out_bxEdge (s : State) : (s.bxEdge).out = s.out := by
  unfold State.bxEdge; split <;> simp
@[simp] theorem choices_bxEdge (s : State) : (s.bxEdge).choices = s.choices := by
  unfold State.bxEdge; split <;> simp
@[simp] theorem pending_bxEdge (s : State) : (s.bxEdge).pending = s.pending := by
  unfold State.bxEdge; split <;> simp

/-! ### Single fields of an update -/

@[simp] theorem hp_setPort_host (s : State) (q : Port) : (s.setPort .host q).hp = q := rfl
@[simp] theorem cp_setPort_host (s : State) (q : Port) : (s.setPort .host q).cp = s.cp := rfl
@[simp] theorem cp_setPort_consumer (s : State) (q : Port) : (s.setPort .consumer q).cp = q := rfl
@[simp] theorem hp_setPort_consumer (s : State) (q : Port) : (s.setPort .consumer q).hp = s.hp := rfl
@[simp] theorem port_host (s : State) : s.port .host = s.hp := rfl
@[simp] theorem port_consumer (s : State) : s.port .consumer = s.cp := rfl
@[simp] theorem au_raise (s : State) (c : Cause) : (s.raise c).au = s.au.raise c := rfl
@[simp] theorem faults_raise (au : AttentionUnit) (c : Cause) : (au.raise c).faults = au.faults := rfl
@[simp] theorem enables_raise (au : AttentionUnit) (c : Cause) : (au.raise c).enables = au.enables := rfl
@[simp] theorem refusal_raise (au : AttentionUnit) (c : Cause) : (au.raise c).refusal = au.refusal := rfl
@[simp] theorem causes_raise (au : AttentionUnit) (c : Cause) : (au.raise c).causes = au.causes ||| c.mask := rfl
@[simp] theorem bu_deliver (s : State) (src : Source) : (s.deliver src).bu = s.bu.count src := rfl
@[simp] theorem hp_answerHead_host (s : State) (r : PortResponse) :
    (s.answerHead .host r).hp = s.hp.dropHead := rfl
@[simp] theorem cp_answerHead_host (s : State) (r : PortResponse) : (s.answerHead .host r).cp = s.cp := rfl
@[simp] theorem cp_answerHead_consumer (s : State) (r : PortResponse) :
    (s.answerHead .consumer r).cp = s.cp.dropHead := rfl
@[simp] theorem hp_answerHead_consumer (s : State) (r : PortResponse) : (s.answerHead .consumer r).hp = s.hp := rfl
@[simp] theorem window_raise (s : State) (c : Cause) (k : Slot) : (s.raise c).window k = s.window k := rfl
@[simp] theorem window_request (s : State) (p : PortId) (t : Translated) (k : Slot) :
    (s.request p t).window k = s.window k := by cases p <;> rfl
@[simp] theorem window_answerHead (s : State) (p : PortId) (r : PortResponse) (k : Slot) :
    (s.answerHead p r).window k = s.window k := by cases p <;> rfl
@[simp] theorem window_restore (s : State) (j k : Slot) : (s.restore k).window j = s.window j :=
  window_congr (by simp) j

/-! ### Ports -/

@[simp] theorem service_acceptHeldOff (q : Port) : q.acceptHeldOff.service = q.service := rfl
@[simp] theorem service_offered (q : Port) (r : Request) : (q.offered r).service = q.service := rfl
@[simp] theorem service_dropHead (q : Port) : q.dropHead.service = .idle := rfl
@[simp] theorem service_emptied (q : Port) : q.emptied.service = .idle := rfl

/-! ### View entries -/

@[simp] theorem entry_setEntry_self (tu : TripUnit) (k : Slot) (v : ViewEntry) : (tu.setEntry k v).entry k = v := by
  simp [TripUnit.entry, TripUnit.setEntry]

theorem entry_setEntry (tu : TripUnit) (j k : Slot) (v : ViewEntry) :
    (tu.setEntry k v).entry j = if j = k then v else tu.entry j := by
  by_cases h : j = k
  · subst h; simp
  · have h' : k.val ≠ j.val := fun e => h (Fin.ext e.symm)
    simp [TripUnit.entry, TripUnit.setEntry, h, h']

@[simp] theorem state_setEntry (tu : TripUnit) (k : Slot) (v : ViewEntry) : (tu.setEntry k v).state = tu.state := rfl
@[simp] theorem reason_setEntry (tu : TripUnit) (k : Slot) (v : ViewEntry) : (tu.setEntry k v).reason = tu.reason := rfl

@[simp] theorem entry_endRestoring (tu : TripUnit) (k : Slot) : tu.endRestoring.entry k = tu.entry k := by
  unfold TripUnit.endRestoring; split <;> rfl

@[simp] theorem entry_trip (tu : TripUnit) (r : TripReason) (g : Slot → Bool) (k : Slot) :
    (tu.trip r g).entry k = if g k then { view := .safe, restorePending := false } else tu.entry k := by
  simp [TripUnit.entry, TripUnit.trip]

@[simp] theorem entry_softReset (tu : TripUnit) (k : Slot) : tu.softReset.entry k = .initial := by
  simp [TripUnit.entry, TripUnit.softReset]

/-! ### The reset state -/

@[simp] theorem window_reset (k : Slot) : State.reset.window k = .initial := by
  simp [State.window, State.reset]

@[simp] theorem entry_reset (k : Slot) : State.reset.tu.entry k = .initial := by
  simp [TripUnit.entry, State.reset, TripUnit.initial]

end Sys2Proof.Machine
end

