-- ==== Sys2Proof/Laws/Ops.lean ====
section
/-! SUPPORT. What each shared operation can do, said once: the cases of its result, or the value of each field it writes. -/
namespace Sys2Proof.Machine

/-! ### Management link -/

theorem slotOf_of_val {b : Byte} {k : Slot} (h : b.toNat = k.val) : slotOf b = some k := by
  have := k.isLt
  simp [slotOf, h]

theorem slotOf_of_large {b : Byte} (h : 16 ≤ b.toNat) : slotOf b = none := by
  simp [slotOf]
  omega

theorem slotOf_eq_some {b : Byte} {k : Slot} (h : slotOf b = some k) : b.toNat = k.val := by
  unfold slotOf at h
  split at h
  · cases h; rfl
  · cases h

theorem onSlot_of_val {b : Byte} {k : Slot} (h : b.toNat = k.val) (act : Slot → State → State × Reply) (s : State) :
    onSlot b act s = act k s := by simp [onSlot, slotOf_of_val h]

theorem onSlot_of_large {b : Byte} (h : 16 ≤ b.toNat) (act : Slot → State → State × Reply) (s : State) :
    onSlot b act s = (s, .fail .badSlot) := by simp [onSlot, slotOf_of_large h]

/-- The first byte of a command's frame is the first of its body. -/
theorem head_encodeFrame (c : Instr) :
    ((encodeFrame c).getD []).headD 0xFF#8 = ((commandBody c).getD []).headD 0xFF#8 := by cases c <;> rfl

/-- A command taken while no frame is to be discarded: the owner's state, answered with its status and data. -/
theorem takeCommand_answered {s t : State} {r : Reply} (hf : s.ml.frame ≠ .discarding) (c : Instr)
    (act : State → State × Reply) (h : act s = (t, r)) (hm : t.ml = s.ml) :
    s.takeCommand c act = t.answered c r.status.code r.data := by
  simp only [State.takeCommand, hf, if_false, h, State.answered, ManagementLink.endFrame, responseTo, head_encodeFrame, hm]

/-- A command that comes as the rise of a frame to be discarded. -/
theorem takeCommand_discarding {s : State} (hf : s.ml.frame = .discarding) (c : Instr) (act : State → State × Reply) :
    s.takeCommand c act = { s with ml := s.ml.discardFrame } := by simp [State.takeCommand, hf]

/-- A command of the link leaves everything but the link as its owner does, or as it was. -/
theorem takeCommand_cases (s : State) (c : Instr) (act : State → State × Reply) :
    s.takeCommand c act = { s with ml := s.ml.discardFrame } ∨
      ∃ ml, s.takeCommand c act = { (act s).1 with ml := ml } ∧ ml.response.status = (act s).2.status.code := by
  by_cases hf : s.ml.frame = .discarding
  · exact .inl (takeCommand_discarding hf c act)
  · exact .inr ⟨_, by simp [State.takeCommand, hf]; rfl, rfl⟩

/-! ### Resync engine -/

theorem mem_segmentsOf {set : SegmentSet} {seg : Segment} : seg ∈ segmentsOf set ↔ set.getLsbD seg.val = true := by
  simp [segmentsOf]

theorem segmentsOf_nodup (set : SegmentSet) : (segmentsOf set).Nodup := (List.nodup_finRange 32).filter _

theorem segmentsOf_allSegments : segmentsOf allSegments = List.finRange 32 := by decide

theorem segmentsOf_length_le (set : SegmentSet) : (segmentsOf set).length ≤ 32 :=
  (List.length_filter_le ..).trans_eq (List.length_finRange ..)

theorem mem_append {re : ResyncEngine} {k : Slot} {set : SegmentSet} {e : Entry} :
    e ∈ (re.append k set).queue ↔ e ∈ re.queue ∨ (e.slot = k ∧ set.getLsbD e.seg.val = true) := by
  obtain ⟨slot, seg⟩ := e
  simp only [ResyncEngine.append, List.mem_append, List.mem_map, mem_segmentsOf, Entry.mk.injEq]
  constructor
  · rintro (h | ⟨a, ha, rfl, rfl⟩)
    · exact .inl h
    · exact .inr ⟨rfl, ha⟩
  · rintro (h | ⟨rfl, h⟩)
    · exact .inl h
    · exact .inr ⟨seg, h, rfl, rfl⟩

@[simp] theorem copy_append (re : ResyncEngine) (k : Slot) (set : SegmentSet) : (re.append k set).copy = re.copy := rfl
@[simp] theorem awaited_append (re : ResyncEngine) (k : Slot) (set : SegmentSet) :
    (re.append k set).awaited = re.awaited := rfl
@[simp] theorem orphaned_append (re : ResyncEngine) (k : Slot) (set : SegmentSet) :
    (re.append k set).orphaned = re.orphaned := rfl

/-- A group appended to a queue without duplicates, none of it queued before, leaves it without. -/
theorem append_nodup {re : ResyncEngine} {k : Slot} {set : SegmentSet} (hq : re.queue.Nodup)
    (hn : ∀ e ∈ re.queue, e.slot = k → set.getLsbD e.seg.val = false) : (re.append k set).queue.Nodup := by
  refine List.nodup_append.2 ⟨hq, (segmentsOf_nodup set).map (fun a b h => by simpa using h), ?_⟩
  rintro e he e' he' rfl
  obtain ⟨seg, hs, rfl⟩ := List.mem_map.1 he'
  exact absurd (mem_segmentsOf.1 hs) (by simpa using hn _ he rfl)

theorem mem_purge {re : ResyncEngine} {k : Slot} {e : Entry} : e ∈ (re.purge k).queue ↔ e ∈ re.queue ∧ e.slot ≠ k := by
  simp [ResyncEngine.purge]

/-- A purge does what R68 says. -/
theorem purge_purged (re : ResyncEngine) (k : Slot) : Purged re (re.purge k) k where
  queue := rfl
  awaited := rfl
  other h := by
    cases hi : re.inFlight <;> simp_all [ResyncEngine.purge]
  mine e he hk := by
    simp only [ResyncEngine.purge, Option.mem_def.1 he, Option.any_some, hk, decide_true, Bool.true_and, if_true]
    refine ⟨trivial, ?_⟩
    cases re.copy <;> simp

/-- A promotion moves one entry of the queue and keeps the rest in order. -/
theorem promoted_perm {queue : List Entry} {e : Entry} (inFlight : Bool) (h : e ∈ queue) :
    (promoted queue inFlight e).Perm queue := by
  unfold promoted
  split
  · rename_i a rest
    split
    · exact .refl _
    · rename_i hne
      have : e ∈ rest := (List.mem_cons.1 h).resolve_left fun he => hne he.symm
      exact .cons _ (List.perm_cons_erase this).symm
  · exact (List.perm_cons_erase h).symm

/-- A promotion keeps the head while an entry is in flight. -/
theorem promoted_head {queue : List Entry} (e : Entry) (h : queue ≠ []) :
    (promoted queue true e).head? = queue.head? := by
  cases queue with
  | nil => exact absurd rfl h
  | cons a rest => simp only [promoted]; split <;> simp

theorem finish_of_cons {re : ResyncEngine} {e : Entry} {rest : List Entry} (h : re.queue = e :: rest) :
    re.finish = { re with queue := rest, copy := none, awaited := if re.awaited = some e then none else re.awaited } := by
  simp [ResyncEngine.finish, h]

/-! ### Stamp writer -/

/-- A record joins as R113 and R114 say. -/
theorem append_withRecord (sw : StampWriter) (r : StampRecord) : sw.append r = sw.withRecord r := by
  by_cases h : sw.queue = [] <;> simp [StampWriter.append, StampWriter.withRecord, StampWriter.startHead, h]

theorem dropHead_withoutHead (sw : StampWriter) : sw.dropHead = sw.withoutHead := rfl

@[simp] theorem queue_withRecord (sw : StampWriter) (r : StampRecord) : (sw.withRecord r).queue = sw.queue ++ [r] := rfl
@[simp] theorem discarded_withRecord (sw : StampWriter) (r : StampRecord) :
    (sw.withRecord r).discarded = sw.discarded := rfl
@[simp] theorem queue_withoutHead (sw : StampWriter) : sw.withoutHead.queue = sw.queue.tail := rfl
@[simp] theorem discarded_withoutHead (sw : StampWriter) : sw.withoutHead.discarded = sw.discarded := rfl

/-- The fields of word 0, told apart as digits of the sum that makes it up. -/
theorem word0_digits {gen live late held enable : Nat} (hg : gen < 65536) (hb : live ≤ 1) (hl : late ≤ 255)
    (hh : held ≤ 1) (he : enable ≤ 1) :
    let n := gen + live * 65536 + late * 131072 + held * 33554432 + enable * 67108864
    n < 4294967296 ∧ n % 65536 = gen ∧ n / 65536 % 2 = live ∧ n / 131072 % 256 = late ∧ n / 33554432 % 2 = held ∧
      n / 67108864 % 2 = enable ∧ n / 134217728 % 32 = 0 := by
  intro n
  and_intros <;> omega

/-- Word 0 holds each field at the bits section 11.5.5 gives it. -/
theorem word0_isWord0 (r : StampRecord) (h : r.lateCount ≤ 255) : r.IsWord0 r.word0 := by
  have live_le : r.live.bit ≤ 1 := by cases r.live <;> decide
  obtain ⟨small, gen, live, late, held, enable, zero⟩ :=
    word0_digits (by simpa using r.gen.isLt) live_le h (Bool.toNat_le r.held) (Bool.toNat_le r.enable)
  have sum : r.word0.toNat = r.gen.toNat + r.live.bit * 65536 + r.lateCount * 131072 + r.held.toNat * 33554432
      + r.enable.toNat * 67108864 := by
    rw [StampRecord.word0, BitVec.toNat_ofNat]
    norm_num
    exact small
  rw [← sum] at gen live late held enable zero
  generalize r.word0 = w at *
  constructor
  case generation => exact BitVec.eq_of_toNat_eq (by rw [BitVec.extractLsb'_toNat]; simpa using gen)
  case late_count => rw [BitVec.extractLsb'_toNat, Nat.shiftRight_eq_div_pow]; norm_num [late]
  case zero =>
    refine BitVec.eq_of_toNat_eq ?_
    rw [BitVec.extractLsb'_toNat, Nat.shiftRight_eq_div_pow]
    norm_num [zero]
    rfl
  all_goals rw [BitVec.getLsbD, Nat.testBit_eq_decide_div_mod_eq]
  case live_bank => norm_num [live]; cases r.live <;> decide
  case held_flag => norm_num [held]
  case enable => norm_num [enable]

/-- A removal does what R118 says. -/
theorem remove_removed (sw : StampWriter) (k : Slot) : RecordRemoved sw (sw.remove k) k where
  queue := by simp only [StampWriter.remove]; split <;> rfl
  other h := by
    cases hq : sw.queue.head? <;> simp_all [StampWriter.remove]
  head r hr hk := by simp [StampWriter.remove, Option.mem_def.1 hr, hk, StampWriter.startHead]

/-! ### Trip unit -/

theorem anyPending_iff {tu : TripUnit} : tu.anyPending = true ↔ ∃ k, (tu.entry k).restorePending = true := by
  simp [TripUnit.anyPending]

theorem anySafe_iff {tu : TripUnit} : tu.anySafe = true ↔ ∃ k, (tu.entry k).view = .safe := by
  simp [TripUnit.anySafe]

/-- RESTORING ends exactly when no restore is left pending, and nothing else is touched. -/
theorem endRestoring_cases (tu : TripUnit) :
    (tu.state = .restoring ∧ (∀ k, (tu.entry k).restorePending = false) ∧
      tu.endRestoring = { tu with state := .normal, reason := none }) ∨
    (¬ (tu.state = .restoring ∧ ∀ k, (tu.entry k).restorePending = false) ∧ tu.endRestoring = tu) := by
  by_cases hs : tu.state = .restoring
  · by_cases hp : tu.anyPending = true
    · obtain ⟨k, hk⟩ := anyPending_iff.1 hp
      exact .inr ⟨fun h => by simp [h.2 k] at hk, by simp [TripUnit.endRestoring, hp]⟩
    · refine .inl ⟨hs, fun k => ?_, by simp [TripUnit.endRestoring, hs, hp]⟩
      by_contra hk
      exact hp (anyPending_iff.2 ⟨k, by simpa using hk⟩)
  · exact .inr ⟨fun h => hs h.1, by simp [TripUnit.endRestoring, hs]⟩

/-- An entry becomes LIVE as R149 and R151 say. -/
theorem toLive_backToLive (tu : TripUnit) (k : Slot) : BackToLive tu (tu.toLive k) k where
  entries j := by simp [TripUnit.toLive, entry_setEntry, ViewEntry.initial]
  ends hs hp := by
    rcases endRestoring_cases (tu.setEntry k .initial) with ⟨-, -, h⟩ | ⟨h, -⟩
    · simp [TripUnit.toLive, h]
    · refine absurd ⟨hs, fun j => ?_⟩ h
      by_cases hj : j = k
      · simp [hj, ViewEntry.initial]
      · simp [entry_setEntry, hj, hp j hj]
  stays h := by
    rcases endRestoring_cases (tu.setEntry k .initial) with ⟨hs, hp, -⟩ | ⟨-, h'⟩
    · obtain ⟨j, hj, hjp⟩ := h hs
      have := hp j
      simp [entry_setEntry, hj, hjp] at this
    · simp [TripUnit.toLive, h']
  line := by
    rcases endRestoring_cases (tu.setEntry k .initial) with ⟨-, -, h⟩ | ⟨-, h⟩ <;> rw [TripUnit.toLive, h] <;>
      exact ⟨rfl, rfl⟩

/-- A trip demand takes the trip outside TRIPPED and does nothing in it. -/
theorem tripDemand_cases (s : State) (r : TripReason) :
    (s.tu.state = .tripped ∧ s.tripDemand r = s) ∨
    (s.tu.state ≠ .tripped ∧
      s.tripDemand r = { s with tu := s.tu.trip r fun k => (s.window k).guarded, au := s.au.raise .trip }) := by
  by_cases h : s.tu.state = .tripped
  · exact .inl ⟨h, by simp [State.tripDemand, h]⟩
  · exact .inr ⟨h, by simp [State.tripDemand, h, State.raise]⟩

/-! ### Filters, watch and timer -/

/-- A sample agrees, counts, or moves the level. -/
theorem sample_cases (f : Filter) (l : Level) :
    (l = f.level ∧ f.sample l = { f with run := 0, prescale := 0 }) ∨
    (l ≠ f.level ∧ f.run + 1 < f.depth ∧ f.sample l = { f with run := f.run + 1, prescale := 0 }) ∨
    (l ≠ f.level ∧ f.depth ≤ f.run + 1 ∧ f.sample l = { f with level := l, run := 0, prescale := 0 }) := by
  by_cases h : l = f.level
  · exact .inl ⟨h, by simp [Filter.sample, h]⟩
  · by_cases h' : f.run + 1 < f.depth
    · exact .inr (.inl ⟨h, h', by simp [Filter.sample, h, h']⟩)
    · exact .inr (.inr ⟨h, by omega, by simp [Filter.sample, h, h']⟩)

/-- A rise is a HIGH sample of a LOW level whose run reaches the depth. -/
theorem rises_iff {f : Filter} {l : Level} :
    f.rises l = true ↔ f.level = .low ∧ l = .high ∧ f.depth ≤ f.run + 1 := by
  simp only [Filter.rises, Bool.and_eq_true, decide_eq_true_eq]
  refine and_congr_right fun hf => ?_
  rcases sample_cases f l with ⟨h, h'⟩ | ⟨h, h1, h'⟩ | ⟨h, h1, h'⟩ <;> rw [h'] <;> cases l <;>
    simp_all
  intro h2
  rw [h2] at h
  cases h

/-- A count step of a SAW timer counts or wraps; of a TRI timer it rises, turns, falls or ends a period. -/
theorem timerStep_cases (pt : PeriodTimer) :
    (pt.mode = .saw ∧ pt.count < pt.period ∧ pt.step = ({ pt with prescale := 0, count := pt.count + 1 }, false)) ∨
    (pt.mode = .saw ∧ pt.period ≤ pt.count ∧ pt.step = ({ pt.takePending with prescale := 0, count := 0 }, true)) ∨
    (pt.mode = .tri ∧ pt.direction = .up ∧ pt.count + 1 < pt.period ∧
      pt.step = ({ pt with prescale := 0, count := pt.count + 1 }, false)) ∨
    (pt.mode = .tri ∧ pt.direction = .up ∧ pt.period ≤ pt.count + 1 ∧
      pt.step = ({ pt with prescale := 0, count := pt.count + 1, direction := .down }, decide (pt.selection ≠ .trough))) ∨
    (pt.mode = .tri ∧ pt.direction = .down ∧ 1 < pt.count ∧
      pt.step = ({ pt with prescale := 0, count := pt.count - 1 }, false)) ∨
    (pt.mode = .tri ∧ pt.direction = .down ∧ pt.count ≤ 1 ∧
      pt.step = ({ pt.takePending with prescale := 0, count := 0, direction := .up }, decide (pt.selection ≠ .peak))) := by
  cases hm : pt.mode with
  | saw =>
    by_cases h : pt.count < pt.period
    · exact .inl ⟨rfl, h, by simp [PeriodTimer.step, hm, PeriodTimer.sawStep, h]⟩
    · exact .inr (.inl ⟨rfl, by omega, by simp [PeriodTimer.step, hm, PeriodTimer.sawStep, h, PeriodTimer.takePending]⟩)
  | tri =>
    refine .inr (.inr ?_)
    cases hd : pt.direction with
    | up =>
      by_cases h : pt.count + 1 < pt.period
      · exact .inl ⟨rfl, rfl, h, by simp [PeriodTimer.step, hm, PeriodTimer.triStep, hd, h]⟩
      · exact .inr (.inl ⟨rfl, rfl, by omega, by simp [PeriodTimer.step, hm, PeriodTimer.triStep, hd, h]⟩)
    | down =>
      refine .inr (.inr ?_)
      by_cases h : 1 < pt.count
      · exact .inl ⟨rfl, rfl, h, by simp [PeriodTimer.step, hm, PeriodTimer.triStep, hd, h]⟩
      · exact .inr ⟨rfl, rfl, by omega,
          by simp [PeriodTimer.step, hm, PeriodTimer.triStep, hd, h, PeriodTimer.takePending]⟩

/-- A count step of the state steps the timer and may deliver a PT boundary; a STOPPED timer takes none. -/
theorem countStep_cases (s : State) :
    (s.bu.pt.running = false ∧ s.countStep = s) ∨
    (s.bu.pt.running = true ∧ s.bu.pt.step.2 = false ∧ s.countStep = { s with bu := { s.bu with pt := s.bu.pt.step.1 } }) ∨
    (s.bu.pt.running = true ∧ s.bu.pt.step.2 = true ∧
      s.countStep = ({ s with bu := { s.bu with pt := s.bu.pt.step.1 } } : State).deliver .pt) := by
  cases hr : s.bu.pt.running with
  | false => exact .inl ⟨rfl, by simp [State.countStep, hr]⟩
  | true =>
    cases hb : s.bu.pt.step.2 with
    | false => exact .inr (.inl ⟨rfl, rfl, by simp [State.countStep, hr, hb]⟩)
    | true => exact .inr (.inr ⟨rfl, rfl, by simp [State.countStep, hr, hb]⟩)

/-- A watch step counts, loses the boundary, or is not taken. -/
theorem watchCount_cases (s : State) :
    (s.bu.watch.counting = false ∧ s.watchCount = s) ∨
    (s.bu.watch.counting = true ∧ s.bu.watch.count + 1 < s.bu.watch.max ∧ s.watchCount =
      { s with bu := { s.bu with watch := { s.bu.watch with count := s.bu.watch.count + 1, prescale := 0 } } }) ∨
    (s.bu.watch.counting = true ∧ s.bu.watch.max ≤ s.bu.watch.count + 1 ∧ ∃ t,
      t = ({ s with bu := { s.bu with watch := { s.bu.watch with count := 0, prescale := 0 } } } : State).raise .lostBoundary ∧
      s.watchCount = if s.bu.watch.tripOnLost then t.tripDemand .watch else t) := by
  cases hc : s.bu.watch.counting with
  | false => exact .inl ⟨rfl, by simp [State.watchCount, hc]⟩
  | true =>
    by_cases h : s.bu.watch.count + 1 < s.bu.watch.max
    · exact .inr (.inl ⟨rfl, h, by simp [State.watchCount, hc, h]⟩)
    · exact .inr (.inr ⟨rfl, by omega, _, rfl, by simp [State.watchCount, hc, h]⟩)

/-! ### Memory port -/

/-- What the arbiter grants is a request that is present. -/
theorem arbitrate_mem {cp sw hp re : Option Access} {n : Nat} {a : Access} {m : Nat}
    (h : arbitrate cp sw hp re n = some (a, m)) : cp = some a ∨ sw = some a ∨ hp = some a ∨ re = some a := by
  unfold arbitrate at h
  split at h
  case h_4 => split at h <;> simp_all
  all_goals simp_all

/-- The passover count stays within its limit. -/
theorem arbitrate_passover {cp sw hp re : Option Access} {n : Nat} {a : Access} {m : Nat} (hn : n ≤ 16)
    (h : arbitrate cp sw hp re n = some (a, m)) : m ≤ 16 := by
  unfold arbitrate at h
  split at h
  case h_4 => split at h <;> simp_all [Config.passoverLimit] <;> omega
  all_goals simp_all <;> omega

theorem portRequest_client {c : Client} {q : Port} {a : Access} (h : portRequest c q = some a) : a.client = c := by
  unfold portRequest at h
  split at h <;> simp at h
  subst h; rfl

theorem stampAccess_client {sw : StampWriter} {a : Access} (h : sw.access = some a) : a.client = .sw := by
  unfold StampWriter.access at h
  split at h
  · split at h <;> simp at h <;> subst h <;> rfl
  · simp at h

theorem copyRequest_client {s : State} {a : Access} (h : s.copyRequest = some a) : a.client = .re := by
  unfold State.copyRequest at h
  split at h
  · split at h
    · simp only at h
      split at h <;> simp at h <;> subst h <;> rfl
    · simp at h
  · simp at h

/-- A port's request is the one R100 gives it, and likewise for the stamp writer and the resync engine. -/
theorem portRequest_iff {c : Client} {q : Port} {a : Access} : portRequest c q = some a ↔ q.Asks c a := by
  unfold portRequest Port.Asks
  cases q.service <;> cases q.queue <;> simp [eq_comm]

theorem stampAccess_iff {sw : StampWriter} {a : Access} : sw.access = some a ↔ sw.Asks a := by
  unfold StampWriter.access StampWriter.Asks
  cases sw.queue <;> cases sw.stage <;> cases sw.step <;> simp [eq_comm, StampRecord.word1]

theorem copyRequest_iff {s : State} {a : Access} : s.copyRequest = some a ↔ s.ResyncAsks a := by
  unfold State.copyRequest State.ResyncAsks
  cases s.re.copy with
  | none => simp
  | some c =>
    cases s.re.queue with
    | nil => simp
    | cons e rest =>
      cases hd : (s.window e.slot).desc <;> cases hs : c.stage <;> cases ht : c.step <;>
        simp [hd, hs, ht, eq_comm, wordAt]

/-- The chosen request is that of its own client. -/
theorem grantChoice_cases {s : State} {a : Access} {n : Nat} (h : s.grantChoice = some (a, n)) :
    (a.client = .cp ∧ portRequest .cp s.cp = some a) ∨ (a.client = .sw ∧ s.sw.access = some a) ∨
    (a.client = .hp ∧ portRequest .hp s.hp = some a) ∨ (a.client = .re ∧ s.copyRequest = some a) := by
  rcases arbitrate_mem h with h | h | h | h
  · exact .inl ⟨portRequest_client h, h⟩
  · exact .inr (.inl ⟨stampAccess_client h, h⟩)
  · exact .inr (.inr (.inl ⟨portRequest_client h, h⟩))
  · exact .inr (.inr (.inr ⟨copyRequest_client h, h⟩))

/-- A grant issues the chosen request, or does nothing. -/
theorem grant_cases (s : State) :
    s.grant = s ∨ ∃ a n, s.mp.awaiting = none ∧ s.grantChoice = some (a, n) ∧ s.grant = s.issue a n := by
  unfold State.grant
  split
  · exact .inr ⟨_, _, ‹_›, ‹_›, rfl⟩
  · exact .inl rfl

/-- An answer ends the awaiting access when it carries its tag, and does nothing otherwise. -/
theorem takeAnswer_cases (s : State) (tag : Tag) (ans : SramAnswer) :
    (s.takeAnswer tag ans = s ∧ ∀ a ∈ s.mp.awaiting, a.tag ≠ tag) ∨
    ∃ a, s.mp.awaiting = some a ∧ a.tag = tag ∧ s.takeAnswer tag ans = s.endAccess a.access (clientAnswerOf ans) := by
  cases hm : s.mp.awaiting with
  | none => exact .inl ⟨by simp [State.takeAnswer, hm], by simp⟩
  | some a =>
    by_cases h : a.tag = tag
    · exact .inr ⟨a, rfl, h, by simp [State.takeAnswer, hm, h]⟩
    · exact .inl ⟨by simp [State.takeAnswer, hm, h], by simpa using h⟩

/-- A timeout ends the awaiting access when it has a limit, and does nothing otherwise. -/
theorem timeOut_cases (s : State) :
    s.timeOut = s ∨ ∃ a, s.mp.awaiting = some a ∧ a.limit.isSome = true ∧
      s.timeOut = s.endAccess a.access (.failure .timeout) := by
  cases hm : s.mp.awaiting with
  | none => exact .inl (by simp [State.timeOut, hm])
  | some a =>
    by_cases h : a.limit.isSome = true
    · exact .inr ⟨a, rfl, h, by simp [State.timeOut, hm, h]⟩
    · exact .inl (by simp [State.timeOut, hm, h])

/-- The fault list takes a record as R160 says. -/
theorem takeFault_withFault (au : AttentionUnit) (r : FaultRecord) : au.takeFault r = au.withFault r := by
  simp only [AttentionUnit.takeFault, AttentionUnit.withFault, AttentionUnit.raise, Cause.mask]

/-- An OK ends the access with nothing reported, a failure with its fault record; then the client takes what it gets. -/
theorem endAccess_ok (s : State) (a : Access) (word : Word) :
    s.endAccess a (.ok word) = s.freed.answerClient a.client (.ok word) := rfl

theorem endAccess_failure (s : State) (a : AwaitingAccess) (kind : FaultKind) :
    s.endAccess a.access (.failure kind) =
      ({ s.freed with au := s.au.withFault (a.failure kind) } : State).answerClient a.access.client (.failure kind) := by
  rw [← takeFault_withFault]
  rfl

/-- The stamp writer's answer (R115 to R119), case by case. -/
theorem stampAnswer_cases (sw : StampWriter) (ans : ClientAnswer) :
    (sw.discarded = true ∧ sw.answer ans = { sw with discarded := false }) ∨
    (sw.discarded = false ∧ sw.queue = [] ∧ sw.answer ans = sw) ∨
    (sw.discarded = false ∧ sw.queue ≠ [] ∧ sw.step = .word1 ∧ (∃ w, ans = .ok w) ∧
      sw.answer ans = { sw with step := .word0, stage := .requested }) ∨
    (sw.discarded = false ∧ sw.queue ≠ [] ∧ ((∃ k, ans = .failure k) ∨ sw.step = .word0) ∧
      sw.answer ans = sw.withoutHead) := by
  cases hd : sw.discarded with
  | true => exact .inl ⟨rfl, by simp [StampWriter.answer, hd]⟩
  | false =>
    refine .inr ?_
    cases hq : sw.queue with
    | nil => exact .inl ⟨rfl, rfl, by simp [StampWriter.answer, hd, hq]⟩
    | cons r rs =>
      refine .inr ?_
      cases ans with
      | failure k =>
        exact .inr ⟨rfl, by simp, .inl ⟨k, rfl⟩, by simp [StampWriter.answer, hd, hq, dropHead_withoutHead]⟩
      | ok w =>
        cases hs : sw.step with
        | word1 => exact .inl ⟨rfl, by simp, rfl, ⟨w, rfl⟩, by simp [StampWriter.answer, hd, hq, hs]⟩
        | word0 => exact .inr ⟨rfl, by simp, .inr rfl, by simp [StampWriter.answer, hd, hq, hs, dropHead_withoutHead]⟩

/-- Completion changes one window's phase from STAGING to COMPLETE, or nothing. -/
theorem complete_cases (s : State) (t : Translated) :
    s.complete t = s ∨ ∃ k d, t.staged = true ∧ t.slot = some k ∧ (s.window k).desc = some d ∧
      t.addr = d.closingWord (s.window k).live.other ∧ ((s.window k).life = .active ∨ (s.window k).life = .held) ∧
      (s.window k).phase = .staging ∧ s.complete t = s.setWindow k { s.window k with phase := .complete } := by
  unfold State.complete
  split
  · rename_i k h1 h2
    simp only
    split
    · rename_i d hd
      split
      · rename_i h
        exact .inr ⟨k, d, h1, h2, hd, h.1, h.2.1, h.2.2, rfl⟩
      · exact .inl rfl
    · exact .inl rfl
  · exact .inl rfl

/-- The answer at the host port: none is waited for; an OK, which may complete an update; a failure. -/
theorem answerHost_cases (s : State) (ans : ClientAnswer) :
    s.answerHost ans = s ∨ ∃ t r rest, s.hp.service = .awaiting t ∧ s.hp.queue = r :: rest ∧
      ((∃ word, ans = .ok word ∧ s.answerHost ans =
        (if opIsWrite r.op then s.complete t else s).answerHead .host (okResponse r.op word)) ∨
       (∃ kind, ans = .failure kind ∧ s.answerHost ans = s.answerHead .host .fault)) := by
  unfold State.answerHost
  split
  · rename_i t r rest h1 h2
    cases ans with
    | ok word => exact .inr ⟨t, r, rest, h1, h2, .inl ⟨word, rfl, rfl⟩⟩
    | failure kind => exact .inr ⟨t, r, rest, h1, h2, .inr ⟨kind, rfl, rfl⟩⟩
  · exact .inl rfl

/-- The answer at the consumer port. -/
theorem answerConsumer_cases (s : State) (ans : ClientAnswer) :
    s.answerConsumer ans = s ∨ ∃ t r rest, s.cp.service = .awaiting t ∧ s.cp.queue = r :: rest ∧
      ((∃ word, ans = .ok word ∧ s.answerConsumer ans = s.answerHead .consumer (okResponse r.op word)) ∨
       (∃ kind, ans = .failure kind ∧ s.answerConsumer ans = s.answerHead .consumer .fault)) := by
  unfold State.answerConsumer
  split
  · rename_i t r rest h1 h2
    cases ans with
    | ok word => exact .inr ⟨t, r, rest, h1, h2, .inl ⟨word, rfl, rfl⟩⟩
    | failure kind => exact .inr ⟨t, r, rest, h1, h2, .inr ⟨kind, rfl, rfl⟩⟩
  · exact .inl rfl

/-- The answer at the resync engine: an orphan's is discarded; the copy moves on; the copy fails. -/
theorem answerResync_cases (s : State) (ans : ClientAnswer) :
    (s.re.orphaned = true ∧ s.answerResync ans = { s with re := { s.re with orphaned := false } }) ∨
    (s.re.orphaned = false ∧ s.answerResync ans = s) ∨
    (s.re.orphaned = false ∧ ∃ c e rest, s.re.copy = some c ∧ s.re.queue = e :: rest ∧
      ((∃ word, ans = .ok word ∧
          s.answerResync ans = { s with re := s.re.advance c (s.segLenOf e.slot) word }) ∨
       (∃ kind, ans = .failure kind ∧ s.answerResync ans = s.failCopy e.slot))) := by
  cases ho : s.re.orphaned with
  | true => exact .inl ⟨rfl, by simp [State.answerResync, ho]⟩
  | false =>
    refine .inr ?_
    cases hc : s.re.copy with
    | none => exact .inl ⟨rfl, by cases ans <;> simp [State.answerResync, ho, hc]⟩
    | some c =>
      cases hq : s.re.queue with
      | nil => exact .inl ⟨rfl, by cases ans <;> simp [State.answerResync, ho, hc, hq]⟩
      | cons e rest =>
        refine .inr ⟨rfl, c, e, rest, rfl, rfl, ?_⟩
        cases ans with
        | ok word => exact .inl ⟨word, rfl, by simp [State.answerResync, ho, hc, hq]⟩
        | failure kind => exact .inr ⟨kind, rfl, by simp [State.answerResync, ho, hc, hq]⟩

/-- What a client takes leaves the memory port, the accesses issued and every item of the attention unit but the causes,
which gain WINDOW_FAULT at most, and that only at a failure. -/
theorem answerClient_frame (s : State) (c : Client) (ans : ClientAnswer) :
    (s.answerClient c ans).mp = s.mp ∧ (s.answerClient c ans).out.accesses = s.out.accesses ∧
      ((s.answerClient c ans).au = s.au ∨
        (s.answerClient c ans).au = s.au.raise .windowFault ∧ ∃ kind, ans = .failure kind) := by
  cases c
  · rcases answerHost_cases s ans with h | ⟨t, r, rest, _, _, ⟨w, rfl, h⟩ | ⟨k, rfl, h⟩⟩
    · simp [State.answerClient, h]
    · simp only [State.answerClient, h]
      split
      · rcases complete_cases s t with h' | ⟨_, _, _, _, _, _, _, _, h'⟩ <;> rw [h'] <;>
          simp [State.answerHead, State.setPort, Outputs.respond]
      · simp [State.answerHead, State.setPort, Outputs.respond]
    · simp [State.answerClient, h, State.answerHead, State.setPort, Outputs.respond]
  · rcases answerConsumer_cases s ans with h | ⟨t, r, rest, _, _, ⟨w, rfl, h⟩ | ⟨k, rfl, h⟩⟩ <;>
      simp [State.answerClient, h, State.answerHead, State.setPort, Outputs.respond]
  · rcases answerResync_cases s ans with ⟨_, h⟩ | ⟨_, h⟩ | ⟨_, c, e, rest, _, _, ⟨w, rfl, h⟩ | ⟨k, rfl, h⟩⟩ <;>
      simp [State.answerClient, h, State.failCopy]
  · simp [State.answerClient]

/-- An OK with the awaiting tag: the port is free, and the client takes the word. -/
theorem exec_answer_ok {s : State} {a : AwaitingAccess} (h : s.mp.awaiting = some a) (word : Word) :
    exec (.memoryAnswer a.tag (.ok word)) s = .next (s.freed.answerClient a.access.client (.ok word)) := by
  show Host.Outcome.next _ = _
  simp [State.takeAnswer, h, clientAnswerOf, endAccess_ok]

/-- A failure of the awaiting access: the port is free, the fault is recorded, and the client takes the failure. -/
theorem exec_failure {s : State} {a : AwaitingAccess} {c : Instr} {kind : FaultKind} (h : s.mp.awaiting = some a)
    (hf : a.FailsBy c kind) : exec c s = .next
      (({ s.freed with au := s.au.withFault (a.failure kind) } : State).answerClient a.access.client (.failure kind)) := by
  rcases hf with ⟨rfl, rfl⟩ | ⟨rfl, hl, rfl⟩
  · show Host.Outcome.next _ = _
    simp [State.takeAnswer, h, clientAnswerOf, endAccess_failure]
  · show Host.Outcome.next _ = _
    simp [State.timeOut, h, hl, endAccess_failure]

/-- The head is taken in flight, or nothing happens. -/
theorem takeInFlight_cases (s : State) :
    s.takeInFlight = s ∨ ∃ e rest, s.re.copy = none ∧ s.re.queue = e :: rest ∧ s.heldBack e = false ∧
      s.takeInFlight = { s with re := { s.re with copy := some { index := 0, step := .read, stage := .requested } } } := by
  unfold State.takeInFlight
  split
  · rename_i e rest h1 h2
    split
    · exact .inl rfl
    · exact .inr ⟨e, rest, h1, h2, by simpa using ‹¬ s.heldBack e = true›, rfl⟩
  · exact .inl rfl

/-! ### Ports -/

/-- The idle host port answers a write with no lane, or translates its head; otherwise nothing happens. -/
theorem hostTake_cases (s : State) :
    s.hostTake = s ∨ ∃ r rest, s.hp.service = .idle ∧ s.hp.queue = r :: rest ∧
      ((opNoLane r.op = true ∧ s.hostTake = s.answerHead .host (.ok 0)) ∨
       (opNoLane r.op = false ∧ s.hostTake = s.serveHost r)) := by
  unfold State.hostTake
  split
  · rename_i r rest h1 h2
    refine .inr ⟨r, rest, h1, h2, ?_⟩
    cases h : opNoLane r.op <;> simp
  · exact .inl rfl

/-- The idle consumer port, likewise. -/
theorem consumerTake_cases (s : State) :
    s.consumerTake = s ∨ ∃ r rest, s.cp.service = .idle ∧ s.cp.queue = r :: rest ∧
      ((opNoLane r.op = true ∧ s.consumerTake = s.answerHead .consumer (.ok 0)) ∨
       (opNoLane r.op = false ∧ s.consumerTake = s.carryOut .consumer r.addr (s.translateConsumer r))) := by
  unfold State.consumerTake
  split
  · rename_i r rest h1 h2
    refine .inr ⟨r, rest, h1, h2, ?_⟩
    cases h : opNoLane r.op <;> simp
  · exact .inl rfl

/-- A released parked write is translated afresh; otherwise nothing happens. -/
theorem retranslate_cases (s : State) :
    s.retranslate = s ∨ ∃ r rest, s.hp.service = .parked ∧ s.re.awaited = none ∧ s.hp.queue = r :: rest ∧
      s.retranslate = s.serveHost r := by
  unfold State.retranslate
  split
  · exact .inr ⟨_, _, ‹_›, ‹_›, ‹_›, rfl⟩
  · exact .inl rfl

/-- Accepting held-off offers keeps every request, in order, and the accepted ones accepted; it leaves an offer held
off only behind a full queue, and fills a queue no further than 4. -/
theorem acceptHeldOff_keeps (q : Port) : q.acceptHeldOff.queue ++ q.acceptHeldOff.offers = q.queue ++ q.offers := by
  simp [Port.acceptHeldOff]

theorem acceptHeldOff_prefix (q : Port) : q.queue <+: q.acceptHeldOff.queue := List.prefix_append ..

theorem acceptHeldOff_full {q : Port} (h : q.acceptHeldOff.offers ≠ []) : 4 ≤ q.acceptHeldOff.queue.length := by
  simp [Port.acceptHeldOff, Config.portCapacity] at h ⊢
  omega

theorem acceptHeldOff_length_le {q : Port} (h : q.queue.length ≤ 4) : q.acceptHeldOff.queue.length ≤ 4 := by
  simp [Port.acceptHeldOff, Config.portCapacity]
  omega

/-- When a head request leaves, the port stands as R78 and R79 say; and so after a soft reset (R97, R98). -/
theorem dropHead_served (q : Port) : q.dropHead = q.served := rfl

theorem emptied_eq (q : Port) : q.emptied = { queue := q.offers.take 4, service := .idle, offers := q.offers.drop 4 } := rfl

/-- With no offer held off there is nothing to accept. -/
theorem acceptHeldOff_of_none {q : Port} (h : q.offers = []) : q.acceptHeldOff = q := by
  cases q
  simp_all [Port.acceptHeldOff]

/-! ### Flip -/

/-- A restore makes the window's entry LIVE, or there is none pending. -/
theorem restore_cases (s : State) (k : Slot) :
    ((s.tu.entry k).restorePending = false ∧ s.restore k = s) ∨
    ((s.tu.entry k).restorePending = true ∧ s.restore k = { s with tu := s.tu.toLive k }) := by
  cases h : (s.tu.entry k).restorePending <;> simp [State.restore, h]

/-- An eligible boundary restores, and then flips, counts late, or leaves the window. -/
theorem eligible_cases (s : State) (k : Slot) (d : Descriptor) (seq : BitVec 32) :
    ((s.window k).phase ≠ .complete ∧ s.eligible k d seq = s.restore k) ∨
    ((s.window k).phase = .complete ∧ (s.restore k).mayFlip k = true ∧ s.eligible k d seq = (s.restore k).flip k d seq) ∨
    ((s.window k).phase = .complete ∧ (s.restore k).mayFlip k = false ∧ s.eligible k d seq = (s.restore k).countLate k) := by
  by_cases h : (s.window k).phase = .complete
  · cases hf : (s.restore k).mayFlip k
    · exact .inr (.inr ⟨h, rfl, by simp [State.eligible, h, hf]⟩)
    · exact .inr (.inl ⟨h, rfl, by simp [State.eligible, h, hf]⟩)
  · exact .inl ⟨h, by simp [State.eligible, h]⟩

/-- A window counts the boundary, or it is eligible, or there is none to take. -/
theorem takeBoundary_cases (s : State) (k : Slot) :
    s.takeBoundary k = s ∨ ∃ b rest d, (s.window k).inbox = b :: rest ∧ (s.window k).desc = some d ∧
      (((s.window k).cadenceCount + 1 < d.cadence ∧ s.takeBoundary k =
          s.setWindow k { s.window k with inbox := rest, cadenceCount := (s.window k).cadenceCount + 1 }) ∨
       (d.cadence ≤ (s.window k).cadenceCount + 1 ∧ s.takeBoundary k =
          (s.setWindow k { s.window k with inbox := rest, cadenceCount := 0 }).eligible k d b.seq)) := by
  cases hi : (s.window k).inbox with
  | nil => exact .inl (by simp [State.takeBoundary, hi])
  | cons b rest =>
    cases hd : (s.window k).desc with
    | none => exact .inl (by simp [State.takeBoundary, hi, hd])
    | some d =>
      refine .inr ⟨b, rest, d, rfl, rfl, ?_⟩
      by_cases h : (s.window k).cadenceCount + 1 < d.cadence
      · exact .inl ⟨h, by simp [State.takeBoundary, hi, hd, h]⟩
      · exact .inr ⟨by omega, by simp [State.takeBoundary, hi, hd, h]⟩

/-! ### One bridge clock -/

/-- Each part of a clock takes its event whole when it is due, and else only counts. -/
theorem clockMemory_part (s : State) : s.MemoryClock s.clockMemory := by
  unfold State.MemoryClock ClockPart State.clockMemory
  cases h : s.mp.awaiting with
  | none =>
    have : s.mp = { s.mp with awaiting := none } := by rw [← h]
    exact ⟨by simp, fun _ => by simp [← this]⟩
  | some a =>
    cases hl : a.limit with
    | none => simp [hl]
    | some l =>
      by_cases hd : l ≤ a.clocks + 1
      · refine ⟨fun _ => ?_, fun no => absurd ⟨a, by simp, l, by simp [hl], hd⟩ no⟩
        show Host.Outcome.next _ = _
        simp [hl, hd, State.timeOut, h, State.endAccess]
      · simp [hl, hd]

theorem clockTimer_part (s : State) : s.TimerClock s.clockTimer := by
  refine ⟨fun h => by simp [State.clockTimer, h], fun h => ⟨fun hd => ?_, fun hd => ?_⟩⟩
  · show Host.Outcome.next _ = _
    simp [State.clockTimer, h, expires, hd]
  · simp [State.clockTimer, h, expires, hd]

theorem clockLine_part (s : State) : s.LineClock s.clockLine := by
  refine ⟨fun hd => ?_, fun hd => by simp [State.clockLine, expires, hd]⟩
  show Host.Outcome.next _ = _
  simp [State.clockLine, expires, hd]

theorem clockTrip_part (s : State) : s.TripClock s.clockTrip := by
  refine ⟨fun hd => ?_, fun hd => by simp [State.clockTrip, expires, hd]⟩
  show Host.Outcome.next _ = _
  simp [State.clockTrip, expires, hd]

theorem clockWatch_part (s : State) : s.WatchClock s.clockWatch := by
  refine ⟨fun h => by rcases h with h | h <;> simp [State.clockWatch, Watch.counting, h],
    fun h1 h2 => ⟨fun hd => ?_, fun hd => ?_⟩⟩
  · show Host.Outcome.next _ = _
    simp [State.clockWatch, expires, hd.2.2, Watch.counting, h1, h2]
  · have : ¬ 2 ^ s.bu.watch.exponent ≤ s.bu.watch.prescale + 1 := fun h => hd ⟨h1, h2, h⟩
    simp [State.clockWatch, expires, this, Watch.counting, h1, h2]

/-- A predicate that every part of a clock keeps is kept by the clock, whatever the order of its free choices. -/
theorem tick_keeps {P : State → Prop} (choices : ∀ s n, P s → P { s with choices := n })
    (memory : ∀ s, P s → P s.clockMemory) (timer : ∀ s, P s → P s.clockTimer) (line : ∀ s, P s → P s.clockLine)
    (trip : ∀ s, P s → P s.clockTrip) (watch : ∀ s, P s → P s.clockWatch) (s : State) (h : P s) : P s.tick := by
  have both : ∀ s first, P s → P (s.clockLineAndWatch first) := by
    intro s first h
    simp only [State.clockLineAndWatch]
    split
    · split
      · exact line _ h
      · exact watch _ (line _ h)
    · exact line _ (watch _ h)
  have start := timer _ (memory _ (choices _ (s.choices + 1) h))
  simp only [State.tick]
  split
  · exact both _ _ (trip _ start)
  · exact trip _ (both _ _ start)

end Sys2Proof.Machine
end

