-- ==== Sys2Proof/Laws/PerInstr.lean ====
section
/-! SUPPORT. Laws stated for every command of `Instr`, one lemma per constructor. ReadsBack: the reader that the code of a
command's frame selects (section 11.5.1) gives the command back from its operand bytes. -/
namespace Sys2Proof.Laws

/-- The two bytes of a field, high byte first, put together again. -/
theorem append_bytes2 (v : BitVec 16) : v.extractLsb' 8 8 ++ v.extractLsb' 0 8 = v := by
  rw [BitVec.extractLsb'_append_extractLsb'_eq_extractLsb' (by rfl)]
  simp

/-- The three bytes of a field, high byte first, put together again. -/
theorem append_bytes3 (v : BitVec 24) : v.extractLsb' 16 8 ++ v.extractLsb' 8 8 ++ v.extractLsb' 0 8 = v := by
  rw [BitVec.extractLsb'_append_extractLsb'_eq_extractLsb' (by rfl),
    BitVec.extractLsb'_append_extractLsb'_eq_extractLsb' (by rfl)]
  simp

/-- The four bytes of a field, high byte first, put together again. -/
theorem append_bytes4 (v : BitVec 32) :
    v.extractLsb' 24 8 ++ v.extractLsb' 16 8 ++ v.extractLsb' 8 8 ++ v.extractLsb' 0 8 = v := by
  rw [BitVec.extractLsb'_append_extractLsb'_eq_extractLsb' (by rfl),
    BitVec.extractLsb'_append_extractLsb'_eq_extractLsb' (by rfl),
    BitVec.extractLsb'_append_extractLsb'_eq_extractLsb' (by rfl)]
  simp

/-- The operands of DEFINE read back from their 25 bytes. -/
theorem readDefine_bytes (d : DefineOperands) : readDefine d.bytes = some d := by
  simp [DefineOperands.bytes, bytes2, bytes3, bytes4, readDefine, append_bytes2, append_bytes3, append_bytes4]

/-- The reader selected by a command's code reads the command back from the operand bytes of its frame. -/
def ReadsBack.Statement (i : Instr) : Prop :=
  i.wellFormed = true → ∀ code ops, commandBody i = some (code :: ops) →
    ∃ read, operandReader code = some read ∧ read ops = some i

/-- A command whose frame has this code and these operand bytes, read back by the reader of the code. -/
theorem ReadsBack.of_body {i : Instr} {code : Byte} {ops : List Byte} {read : List Byte → Option Instr}
    (hb : commandBody i = some (code :: ops)) (hr : operandReader code = some read)
    (hi : i.wellFormed = true → read ops = some i) : ReadsBack.Statement i := by
  intro hw code' ops' h
  obtain ⟨rfl, rfl⟩ : code = code' ∧ ops = ops' := by simpa [hb] using h
  exact ⟨read, hr, hi hw⟩

/-- A row that is not sent in a frame has no body to read back. -/
theorem ReadsBack.of_none {i : Instr} (hb : commandBody i = none) : ReadsBack.Statement i := by
  intro _ code ops h
  simp [hb] at h

theorem ReadsBack.fullReset (csnLow : Bool) : ReadsBack.Statement (.fullReset csnLow) :=
  ReadsBack.of_none rfl

theorem ReadsBack.frameNotTaken (bits : List Bool) : ReadsBack.Statement (.frameNotTaken bits) :=
  ReadsBack.of_none rfl

theorem ReadsBack.nop (padding : List Byte) : ReadsBack.Statement (.nop padding) :=
  ReadsBack.of_body rfl rfl (by simp [Instr.wellFormed, paddingFits, readNop])

theorem ReadsBack.queryDevice : ReadsBack.Statement .queryDevice :=
  ReadsBack.of_body rfl rfl fun _ => rfl

theorem ReadsBack.define (ops : DefineOperands) : ReadsBack.Statement (.define ops) :=
  ReadsBack.of_body rfl rfl (by simp [readDefine_bytes])

theorem ReadsBack.enable (slot : Byte) : ReadsBack.Statement (.enable slot) :=
  ReadsBack.of_body rfl rfl fun _ => rfl

theorem ReadsBack.disable (slot : Byte) : ReadsBack.Statement (.disable slot) :=
  ReadsBack.of_body rfl rfl fun _ => rfl

theorem ReadsBack.clear (slot : Byte) : ReadsBack.Statement (.clear slot) :=
  ReadsBack.of_body rfl rfl fun _ => rfl

theorem ReadsBack.hold (slot : Byte) : ReadsBack.Statement (.hold slot) :=
  ReadsBack.of_body rfl rfl fun _ => rfl

theorem ReadsBack.release (slot : Byte) : ReadsBack.Statement (.release slot) :=
  ReadsBack.of_body rfl rfl fun _ => rfl

theorem ReadsBack.abort (slot : Byte) : ReadsBack.Statement (.abort slot) :=
  ReadsBack.of_body rfl rfl fun _ => rfl

theorem ReadsBack.queryWindow (slot : Byte) : ReadsBack.Statement (.queryWindow slot) :=
  ReadsBack.of_body rfl rfl fun _ => rfl

theorem ReadsBack.ptSet (exponent mode selection : Byte) (period : BitVec 16) : ReadsBack.Statement (.ptSet exponent mode selection period) :=
  ReadsBack.of_body rfl rfl (by simp [readPtSet, bytes2, append_bytes2])

theorem ReadsBack.ptStart : ReadsBack.Statement .ptStart :=
  ReadsBack.of_body rfl rfl fun _ => rfl

theorem ReadsBack.ptStop : ReadsBack.Statement .ptStop :=
  ReadsBack.of_body rfl rfl fun _ => rfl

theorem ReadsBack.ptQuery : ReadsBack.Statement .ptQuery :=
  ReadsBack.of_body rfl rfl fun _ => rfl

theorem ReadsBack.forceBoundary (source : Byte) : ReadsBack.Statement (.forceBoundary source) :=
  ReadsBack.of_body rfl rfl fun _ => rfl

theorem ReadsBack.lineSet (exponent depth : Byte) : ReadsBack.Statement (.lineSet exponent depth) :=
  ReadsBack.of_body rfl rfl fun _ => rfl

theorem ReadsBack.watchSet (enable exponent : Byte) (min max : BitVec 16) (tripOnLost : Byte) : ReadsBack.Statement (.watchSet enable exponent min max tripOnLost) :=
  ReadsBack.of_body rfl rfl (by simp [readWatchSet, bytes2, append_bytes2])

theorem ReadsBack.watchQuery : ReadsBack.Statement .watchQuery :=
  ReadsBack.of_body rfl rfl fun _ => rfl

theorem ReadsBack.tripSet (exponent depth enable : Byte) : ReadsBack.Statement (.tripSet exponent depth enable) :=
  ReadsBack.of_body rfl rfl fun _ => rfl

theorem ReadsBack.tripNow : ReadsBack.Statement .tripNow :=
  ReadsBack.of_body rfl rfl fun _ => rfl

theorem ReadsBack.tripRelease : ReadsBack.Statement .tripRelease :=
  ReadsBack.of_body rfl rfl fun _ => rfl

theorem ReadsBack.readCauses : ReadsBack.Statement .readCauses :=
  ReadsBack.of_body rfl rfl fun _ => rfl

theorem ReadsBack.clearCauses (causes : Byte) : ReadsBack.Statement (.clearCauses causes) :=
  ReadsBack.of_body rfl rfl fun _ => rfl

theorem ReadsBack.setMask (causes : Byte) : ReadsBack.Statement (.setMask causes) :=
  ReadsBack.of_body rfl rfl fun _ => rfl

theorem ReadsBack.readFault : ReadsBack.Statement .readFault :=
  ReadsBack.of_body rfl rfl fun _ => rfl

theorem ReadsBack.readRefusal : ReadsBack.Statement .readRefusal :=
  ReadsBack.of_body rfl rfl fun _ => rfl

theorem ReadsBack.memorySet (setting : Byte) : ReadsBack.Statement (.memorySet setting) :=
  ReadsBack.of_body rfl rfl fun _ => rfl

theorem ReadsBack.softReset : ReadsBack.Statement .softReset :=
  ReadsBack.of_body rfl rfl fun _ => rfl

theorem ReadsBack.requestAccept (port : PortId) (request : Request) : ReadsBack.Statement (.requestAccept port request) :=
  ReadsBack.of_none rfl

theorem ReadsBack.hostTakeInService : ReadsBack.Statement .hostTakeInService :=
  ReadsBack.of_none rfl

theorem ReadsBack.consumerTakeInService : ReadsBack.Statement .consumerTakeInService :=
  ReadsBack.of_none rfl

theorem ReadsBack.parkedWriteTranslateAfresh : ReadsBack.Statement .parkedWriteTranslateAfresh :=
  ReadsBack.of_none rfl

theorem ReadsBack.memoryGrant : ReadsBack.Statement .memoryGrant :=
  ReadsBack.of_none rfl

theorem ReadsBack.memoryAnswer (tag : Tag) (answer : SramAnswer) : ReadsBack.Statement (.memoryAnswer tag answer) :=
  ReadsBack.of_none rfl

theorem ReadsBack.accessTimeout : ReadsBack.Statement .accessTimeout :=
  ReadsBack.of_none rfl

theorem ReadsBack.resyncTakeInFlight : ReadsBack.Statement .resyncTakeInFlight :=
  ReadsBack.of_none rfl

theorem ReadsBack.ptCountStep : ReadsBack.Statement .ptCountStep :=
  ReadsBack.of_none rfl

theorem ReadsBack.lineSample (bnd : Level) : ReadsBack.Statement (.lineSample bnd) :=
  ReadsBack.of_none rfl

theorem ReadsBack.watchStep : ReadsBack.Statement .watchStep :=
  ReadsBack.of_none rfl

theorem ReadsBack.tripSample (trp : Level) : ReadsBack.Statement (.tripSample trp) :=
  ReadsBack.of_none rfl

theorem ReadsBack.windowTakeBoundary (slot : Slot) : ReadsBack.Statement (.windowTakeBoundary slot) :=
  ReadsBack.of_none rfl

theorem ReadsBack.csnFall : ReadsBack.Statement .csnFall :=
  ReadsBack.of_none rfl

theorem ReadsBack.discardedFrame : ReadsBack.Statement .discardedFrame :=
  ReadsBack.of_none rfl

end Sys2Proof.Laws
end

