-- ==== Sys2Proof/Tests/Slice0.lean ====
section
/-! SUPPORT. Tests: single events against the values the spec's tables and worked sections give, the refusals of
ill-formed commands, and for each statement with hypotheses a concrete state and operands that meet them. -/

section

set_option Elab.async false

open Sys2Proof Sys2Proof.Machine

/-! ### Helpers -/

/-- The state after one event; every event of the part ends in a state. -/
def after (c : Instr) (s : State) : State :=
  match exec c s with
  | .next t => t
  | _       => s

/-- A protected window of 128 words, like slot 2 of section 3.6: cadence 2, closing word last, no safe region. -/
def table2 : Descriptor :=
  { sizeExp := 7, logicalBase := 0x030000, bankABase := 0x030000, bankBBase := 0x030080, safeBase := none,
    fillWord := 0x5A5A5A5A, source := .pt, cadence := 2, closingOffset := 0x7F, singleShot := false,
    hostView := .shadow, tripProtected := true, stampAddr := some 0x01F002 }

/-- A lawful record of that window in service. -/
def record2 : Window :=
  { desc := some table2, life := .active, live := .a, gen := 0, phase := .clean, dirty := 0, cadenceCount := 0,
    lateCount := 0, inbox := [] }

/-- The bridge after reset with that record in slot 2. -/
def with2 (w : Window) : State := State.reset.setWindow 2 w

/-- The record with an update of segment 31 under way in a phase. -/
def updating (phase : Phase) : Window := { record2 with phase := phase, dirty := 0x80000000#32 }

/-- A bare request at the two ends of slot 2's logical range. -/
def writeAt (a : Addr) : Request := { addr := a, op := .write 0xF#4 0x11111111#32 }
def readAt (a : Addr) : Request := { addr := a, op := .read }

/-- The host port, idle, with one request waiting. -/
def asked (s : State) (r : Request) : State := { s with hp := { queue := [r], service := .idle, offers := [] } }

/-- The consumer port, idle, with one request waiting. -/
def wanted (s : State) (r : Request) : State := { s with cp := { queue := [r], service := .idle, offers := [] } }

/-- The DEFINE of section 11.6. -/
def define0 : DefineOperands :=
  { slot := 0x00#8, sizeExp := 0x08#8, flags := 0x20#8, cadence := 0x01#8, logical := 0x010000#24, bankA := 0x010000#24,
    bankB := 0x010100#24, safe := 0x000000#24, stamp := 0x01F000#24, closing := 0x00FF#16, fill := 0#32 }

/-! ### Frames and responses (sections 11.5 and 11.6) -/

/-- The DEFINE frame of section 11.6, byte by byte, with its check byte 0xC8. -/
theorem test_define_frame : encodeFrame (.define define0) = some
    [0x10#8, 0x00#8, 0x08#8, 0x20#8, 0x01#8, 0x01#8, 0x00#8, 0x00#8, 0x01#8, 0x00#8, 0x00#8, 0x01#8, 0x01#8, 0x00#8,
     0x00#8, 0x00#8, 0x00#8, 0x01#8, 0xF0#8, 0x00#8, 0x00#8, 0xFF#8, 0x00#8, 0x00#8, 0x00#8, 0x00#8, 0xC8#8] := by
  decide

/-- ENABLE 0x11 0x00 0xEE of section 11.6 is read as ENABLE of slot 0, and with 0xEF it fails its check. -/
theorem test_enable_frame : judgeFrame (bytesBits [0x11#8, 0x00#8, 0xEE#8]) = .ok (.enable 0#8) ∧
    judgeFrame (bytesBits [0x11#8, 0x00#8, 0xEF#8]) = .error .badCheck := by
  constructor <;> rfl

/-- The response to that failed frame is 0x10, 0x11, 0xFE (section 11.6). -/
theorem test_bad_check_response :
    (after (.frameNotTaken (bytesBits [0x11#8, 0x00#8, 0xEF#8])) State.reset).ml.response.bytes =
      [0x10#8, 0x11#8, 0xFE#8] := by decide

/-- DEFINE answers 0x00 0x10 0xEF, and under its frame the IDLE response goes out first (section 11.6). -/
theorem test_define_response : (after (.define define0) State.reset).ml.response.bytes = [0x00#8, 0x10#8, 0xEF#8] ∧
    (after (.define define0) State.reset).ml.sdo.take 24 = bytesBits [0x01#8, 0xFF#8, 0x01#8] ∧
    ((after (.define define0) State.reset).window 0).life = .defined := by decide +kernel

/-- QUERY WINDOW after ENABLE, before any copy: the bytes of section 11.6, with check byte 0xCA; and the record's word 0
is 0x04000000. -/
theorem test_enabled_query :
    let s := after (.enable 0#8) (after (.define define0) State.reset)
    (after (.queryWindow 0#8) s).ml.response.bytes =
      [0x00#8, 0x17#8, 0x02#8, 0x00#8, 0x00#8, 0x00#8, 0x00#8, 0x00#8, 0x00#8, 0x00#8, 0x00#8, 0x20#8, 0x00#8, 0x00#8,
       0xCA#8] ∧ s.sw.queue.map StampRecord.word0 = [0x04000000#32] := by decide +kernel

/-- The codes of section 11.5.1 and the statuses of R168 that end a frame: an unknown code, a wrong length, a lone byte,
left-over bits. -/
theorem test_frames_refused :
    judgeFrame (bytesBits [0x02#8, 0xFD#8]) = .error .badCommand ∧
    judgeFrame (bytesBits [0x11#8, 0xEE#8]) = .error .badLength ∧
    judgeFrame (bytesBits [0x11#8]) = .error .badLength ∧
    judgeFrame (bytesBits [0x31#8, 0xCE#8] ++ [true]) = .error .badLength := by
  refine ⟨rfl, rfl, rfl, rfl⟩

/-- The codes of sections 11.5.1 and 11.5.4 as the model gives and reads them. -/
theorem test_codes :
    [Lifecycle.unused, .defined, .active, .held, .faulted].map Lifecycle.code = [0#8, 1#8, 2#8, 3#8, 4#8] ∧
    [Phase.clean, .staging, .complete].map Phase.code = [0#8, 1#8, 2#8] ∧
    [TripState.normal, .tripped, .restoring].map TripState.code = [0#8, 1#8, 2#8] ∧
    [none, some TripReason.line, some .watch, some .command].map tripReasonCode = [0#8, 1#8, 2#8, 3#8] ∧
    [Client.hp, .cp, .re, .sw].map Client.code = [0#8, 1#8, 2#8, 3#8] ∧
    [FaultKind.fault, .timeout].map FaultKind.code = [0#8, 1#8] ∧
    [Reason.concealed, .stampWrite, .consumerWrite, .held, .faulted].map Reason.code = [1#8, 2#8, 3#8, 4#8, 5#8] ∧
    [0#8, 1#8, 2#8].map modeOf = [some .saw, some .tri, none] ∧
    [0#8, 1#8, 2#8, 3#8].map selectionOf = [some .peak, some .trough, some .both, none] := by decide

/-- The flags byte of DEFINE, bit by bit (section 11.5.2): 0x1A is single-shot, protected, safe base present. -/
theorem test_define_flags :
    let first := descriptorOf { define0 with flags := 0x1A#8, safe := 0x010200#24 }
    let second := descriptorOf { define0 with flags := 0x05#8 }
    first.map (·.source) = some .pt ∧ first.map (·.singleShot) = some true ∧ first.map (·.hostView) = some .shadow ∧
      first.map (·.tripProtected) = some true ∧ first.map (·.safeBase) = some (some 0x010200#22) ∧
      first.map (·.stampAddr) = some none ∧ second.map (·.source) = some .bx ∧ second.map (·.hostView) = some .live ∧
      (descriptorOf { define0 with flags := 0x40#8 }).isNone = true := by decide +kernel

/-! ### Ill-formed commands -/

/-- A NOP with 33 padding bytes is ill formed; with 32 it is well formed (R169). -/
theorem test_ill_formed_nop : (Instr.nop (List.replicate 33 0#8)).wellFormed = false ∧
    (Instr.nop (List.replicate 32 0#8)).wellFormed = true := by decide

/-- A FRAME_NOT_TAKEN of a frame that passes every check is ill formed; of one with a bad check byte it is well formed. -/
theorem test_ill_formed_frame : (Instr.frameNotTaken (bytesBits [0x11#8, 0x00#8, 0xEE#8])).wellFormed = false ∧
    (Instr.frameNotTaken (bytesBits [0x11#8, 0x00#8, 0xEF#8])).wellFormed = true := by decide +kernel

/-- No word of the table spells a command. -/
theorem test_no_table_word : decodeTableWord 8 0 = none ∧ State.reset.withFetchWord 8 0 = State.reset := by decide +kernel

/-! ### Events of the blocks -/

/-- HOLD then RELEASE leave ACTIVE; DISABLE leaves DEFINED; CLEAR of it leaves UNUSED (R9 to R15). -/
theorem test_lifecycle :
    let held := after (.hold 2#8) (with2 record2)
    (held.window 2).life = .held ∧ ((after (.release 2#8) held).window 2).life = .active ∧
      ((after (.disable 2#8) held).window 2).life = .defined ∧
      ((after (.clear 2#8) (after (.disable 2#8) held)).window 2).life = .unused := by decide +kernel

/-- The write of 0x03000C in section 3.6 is staged at 0x03008C, in segment 3. -/
theorem test_staged_write :
    let s := after .hostTakeInService (asked (with2 record2) (writeAt 0x03000C))
    s.hp.service = .requesting { addr := 0x03008C, slot := some 2, staged := true } ∧
      (s.window 2).dirty = 0x8#32 ∧ (s.window 2).phase = .staging := by decide +kernel

/-- A flip at the second boundary of cadence 2 (section 3.6): live B, generation 1, the dirty segment queued. -/
theorem test_flip :
    let s := with2 { updating .complete with cadenceCount := 1, inbox := [{ source := .pt, seq := 9 }] }
    let t := after (.windowTakeBoundary 2) s
    (t.window 2).live = .b ∧ (t.window 2).gen = 1 ∧ (t.window 2).phase = .clean ∧
      t.re.queue = [{ slot := 2, seg := 31 }] ∧ t.sw.queue.map (·.seq) = [9] := by decide +kernel

/-- Copy order of section 4: the in-flight entry's first access reads the live bank's word. -/
theorem test_copy_grant :
    let s := { with2 record2 with re := { ResyncEngine.initial with queue := [{ slot := 2, seg := 3 }] } }
    let t := after .memoryGrant (after .resyncTakeInFlight s)
    t.out.accesses.map (·.access) = [{ client := .re, op := .read, addr := 0x03000C, slot := some 2 }] ∧
      t.mp.tag = 1 := by decide +kernel

/-- An OK answer with the awaiting tag serves a host read; another tag leaves the port waiting (R104, R105). -/
theorem test_answer :
    let s := after .memoryGrant (after .hostTakeInService (asked (with2 record2) (readAt 0x200000)))
    (after (.memoryAnswer 0 (.ok 7)) s).out.host = [{ code := .ok, data := 7 }] ∧
      after (.memoryAnswer 1 (.ok 7)) s = s := by decide +kernel

/-- An access that times out is reported with kind TIMEOUT, and a host request is answered FAULT (R95, R106). -/
theorem test_timeout :
    let s := after .accessTimeout (after .memoryGrant (after .hostTakeInService (asked State.reset (readAt 0x200000))))
    s.out.host = [{ code := .fault, data := 0 }] ∧ s.au.faults.map (·.kind) = [.timeout] ∧ s.au.causes = 0x20#8 := by
  decide +kernel

/-- In view SAFE a consumer read of a window with no safe region is answered with its fill word (R89). -/
theorem test_fill_word :
    let s := after .tripNow (with2 record2)
    (after .consumerTakeInService (wanted s (readAt 0x030000))).out.consumer = [{ code := .ok, data := 0x5A5A5A5A }] ∧
      s.tu.reason = some .command ∧ s.au.causes = 0x01#8 := by decide +kernel

/-- The triangle with P = 4: the count rises to 4, turns, and falls (section 8.7). -/
theorem test_triangle :
    let s := after .ptStart (after (.ptSet 2 1 2 4) State.reset)
    let peak := after .ptCountStep (after .ptCountStep (after .ptCountStep (after .ptCountStep s)))
    peak.bu.pt.count = 4 ∧ peak.bu.pt.direction = .down ∧ peak.bu.ptSeq = 1 ∧
      (after .ptCountStep peak).bu.pt.count = 3 := by decide +kernel

/-- With depth 4 the trip filter needs four ASSERTED samples (R144). -/
theorem test_trip_filter :
    let s := after (.tripSet 0 4 1) State.reset
    let three := after (.tripSample .high) (after (.tripSample .high) (after (.tripSample .high) s))
    three.tu.state = .normal ∧ (after (.tripSample .high) three).tu.state = .tripped ∧
      (after (.tripSample .high) three).tu.reason = some .line := by decide +kernel

/-- An interval below MIN raises EARLY_BOUNDARY and is not delivered (R137). -/
theorem test_early_edge :
    let s := after (.lineSample .low) (after (.lineSample .high) (after (.watchSet 1 0 90 110 0) State.reset))
    let t := after (.lineSample .high) s
    s.bu.bxSeq = 1 ∧ t.bu.bxSeq = 1 ∧ t.au.causes = 0x08#8 := by decide +kernel

/-- Steps 3 to 7 of section 5.10: a fifth read is held off by a full queue, and accepted as the first is answered; two
equal offers are two. SOFT RESET then answers four, and the last offer joins the emptied queue (R98). -/
theorem test_held_off_offer :
    let c := fun n => readAt (0x020010 + n)
    let four := after (.requestAccept .consumer (c 3)) (after (.requestAccept .consumer (c 2))
      (after (.requestAccept .consumer (c 1)) (after (.requestAccept .consumer (c 0)) State.reset)))
    let held := after (.requestAccept .consumer (c 4)) (after (.requestAccept .consumer (c 4)) four)
    let answered := after (.memoryAnswer 0 (.ok 7)) (after .memoryGrant (after .consumerTakeInService held))
    four.cp.queue = [c 0, c 1, c 2, c 3] ∧ held.cp.queue = four.cp.queue ∧ held.cp.offers = [c 4, c 4] ∧
      answered.cp.queue = [c 1, c 2, c 3, c 4] ∧ answered.cp.offers = [c 4] ∧
      (after .softReset answered).out.consumer.length = 5 ∧ (after .softReset answered).cp.queue = [c 4] := by
  decide +kernel

/-- SOFT RESET answers every waiting request ABORTED and leaves IDLE in the buffer (R97, R172). -/
theorem test_soft_reset :
    let s := after .softReset (asked (with2 (updating .staging)) (readAt 0x030000))
    s.out.host = [{ code := .aborted, data := 0 }] ∧ s.ml.response.bytes = [0x01#8, 0xFF#8, 0x01#8] ∧
      (s.window 2).life = .defined ∧ (s.window 2).dirty = 0 := by decide +kernel

/-- One idle clock at exponent 1 raises the running timer's prescale count to 1, and the count stays (R125). -/
theorem test_prescale : (State.clockTimer { State.reset with bu := { State.reset.bu with
    pt := { State.reset.bu.pt with running := true, exponent := 1 } } }).bu.pt =
      { State.reset.bu.pt with running := true, exponent := 1, prescale := 1 } := by decide +kernel
/-! ### A lawful state in the midst of everything -/

/-- An unprotected window at 0x040000, and one at 0x050000 with a stamp pair. -/
def table3 : Descriptor :=
  { table2 with logicalBase := 0x040000, bankABase := 0x040000, bankBBase := 0x040080, source := .bx, cadence := 1,
                tripProtected := false, stampAddr := none }
def table4 : Descriptor :=
  { table3 with logicalBase := 0x050000, bankABase := 0x050000, bankBBase := 0x050080, stampAddr := some 0x01F004 }

/-- The stamp record of slot 4's enable. -/
def record4 : StampRecord :=
  { slot := 4, stampAddr := 0x01F004, gen := 0, live := .a, lateCount := 0, held := false, enable := true, seq := 1 }

/-- The access of slot 3's in-flight entry, one clock short of its limit. -/
def copyRead : AwaitingAccess :=
  { access := { client := .re, op := .read, addr := 0x040017, slot := some 3 }, tag := 15, limit := some 16, clocks := 15 }

/-- Slot 2 with a COMPLETE update at its second boundary and its view SAFE; slot 3 with a copy out and the host parked on
it; slot 4's enable stamp record queued; the timer at its trough; the watch one step short of MAX. -/
def busy : State :=
  { ((State.reset.setWindow 2 { updating .complete with cadenceCount := 1, lateCount := 255,
                                                        inbox := [{ source := .pt, seq := 9 }] }).setWindow 3
      { record2 with desc := some table3 }).setWindow 4 { record2 with desc := some table4 } with
    re := { queue := [{ slot := 3, seg := 5 }, { slot := 3, seg := 31 }, { slot := 4, seg := 0 }],
            copy := some { index := 3, step := .read, stage := .granted }, awaited := some { slot := 3, seg := 5 },
            orphaned := false }
    sw := { queue := [record4], step := .word0, stage := .requested, discarded := false }
    hp := { queue := [writeAt 0x040014, readAt 0x030000], service := .parked, offers := [] }
    cp := { queue := [readAt 0x030000], service := .idle, offers := [] }
    mp := { awaiting := some copyRead, tag := 0, passover := 16, timeout := some 4 }
    bu := { State.reset.bu with
      pt := { running := true, count := 1, direction := .down, prescale := 3, exponent := 2, mode := .tri,
              selection := .both, period := 4, pendingPeriod := some 65535 }
      line := { level := .high, run := 15, prescale := 127, exponent := 7, depth := 16 }
      watch := { enable := true, exponent := 0, min := 90, max := 110, tripOnLost := true, count := 109, prescale := 0,
                 first := false, history := [90, 109] } }
    tu := ({ State.reset.tu with state := .restoring, reason := some .watch, lineTrip := true }).setEntry 2
      { view := .safe, restorePending := true }
    au := { causes := 0x20#8, enables := 0x21#8, refusal := none,
            faults := [{ origin := .hp, kind := .fault, isWrite := false, addr := 0x3FFFFF, slot := none }] }
    pending := [.windowTakeBoundary 2] }

theorem table2_valid : table2.valid := by
  unfold Descriptor.valid; simp [table2]; decide
theorem table3_valid : table3.valid := by
  unfold Descriptor.valid; simp [table3, table2]; decide
theorem table4_valid : table4.valid := by
  unfold Descriptor.valid; simp [table4, table3, table2]; decide


/-- The descriptors of the busy state. -/
theorem busy_desc : ∀ k, (busy.window k).desc =
    if k = 2 then some table2 else if k = 3 then some table3 else if k = 4 then some table4 else none := by
  decide +kernel

theorem busy_windows : WindowsLawful busy := by
  intro k
  constructor
  case desc_valid =>
    intro d hd
    rw [busy_desc k] at hd
    split at hd
    · cases hd; exact table2_valid
    · split at hd
      · cases hd; exact table3_valid
      · split at hd <;> cases hd
        exact table4_valid
  all_goals revert k; decide +kernel

theorem busy_overlap : NoOverlap busy := by unfold NoOverlap; decide +kernel
theorem busy_queue : QueueLawful busy := by constructor <;> decide +kernel
theorem busy_ports : PortsLawful busy := by constructor <;> decide +kernel
theorem busy_memory : MemoryLawful busy := by constructor <;> decide +kernel
theorem busy_stamps : StampsLawful busy := by constructor <;> decide +kernel
theorem busy_boundary : BoundaryLawful busy := by constructor <;> constructor <;> decide +kernel
theorem busy_views : ViewsLawful busy := by constructor <;> decide +kernel

/-- The busy state meets every law. -/
theorem busy_lawful : busy.Lawful :=
  ⟨busy_windows, busy_overlap, busy_queue, busy_ports, busy_memory, busy_stamps, busy_boundary, busy_views,
    by unfold FaultsLawful; decide +kernel⟩

/-! ### Hypotheses met: for each statement that has some, a state and operands that meet them, clause by clause -/

/-- For every statement of laws that steps keep: the busy state meets them all, and takes a step. -/
theorem witness_EveryStepKeepsEveryLaw : busy.Lawful ∧ step busy = .next (State.takeBoundary { busy with pending := [] } 2) :=
  ⟨busy_lawful, rfl⟩
theorem witness_WindowRecordsStayLawful : WindowsLawful busy ∧ QueueLawful busy ∧ busy.pending ≠ [] :=
  ⟨busy_windows, busy_queue, by decide +kernel⟩
theorem witness_ResyncQueueStaysLawful : (WindowsLawful busy ∧ QueueLawful busy) ∧ busy.re.queue ≠ [] :=
  ⟨⟨busy_windows, busy_queue⟩, by decide +kernel⟩
theorem witness_OneAccessIsOut :
    (WindowsLawful busy ∧ QueueLawful busy ∧ PortsLawful busy ∧ MemoryLawful busy) ∧ busy.clientOut = some .re :=
  ⟨⟨busy_windows, busy_queue, busy_ports, busy_memory⟩, by decide +kernel⟩
theorem witness_BoundarySourcesStayLawful : BoundaryLawful busy ∧ busy.bu.pt.running = true :=
  ⟨busy_boundary, by decide +kernel⟩
theorem witness_ViewsStayTiedToTheTripState :
    (WindowsLawful busy ∧ QueueLawful busy ∧ ViewsLawful busy) ∧ busy.tu.state = .restoring :=
  ⟨⟨busy_windows, busy_queue, busy_views⟩, by decide +kernel⟩

/-- An idle clock: nothing awaited; an access one clock below its limit of 16, and two below; a watch that is not counting,
one whose step is due, and one whose prescale count is one short of it. -/
theorem witness_IdleStepIsOneBridgeClock :
    State.reset.pending = [] ∧ State.reset.mp.awaiting = none ∧ State.reset.bu.watch.first = true ∧
      (∀ l ∈ copyRead.limit, l ≤ copyRead.clocks + 1) ∧
      (∀ l ∈ ({ copyRead with clocks := 14 } : AwaitingAccess).limit, 14 + 1 < l) ∧
      busy.bu.watch.enable = true ∧ busy.bu.watch.first = false ∧
      2 ^ busy.bu.watch.exponent ≤ busy.bu.watch.prescale + 1 ∧
      ({ busy.bu.watch with exponent := 1 } : Watch).prescale + 1 < 2 ^ 1 := by decide +kernel

/-- One idle clock with a count step at the trough, a BX edge and a watch step due: PT and BX are delivered to the windows
that count them, and with a lost boundary on the clock a trip is taken. -/
theorem test_clock_takes_its_events :
    let s : State := { busy with pending := [], pins := { busy.pins with bnd := .high }, bu := { busy.bu with
      line := { busy.bu.line with level := .low } } }
    let p := s.clockMemory.clockTimer
    (p.window 3).life = .faulted ∧ p.bu.ptSeq = 1 ∧ ((p.window 2).inbox.map (·.seq)) = [9, 1] ∧
      (p.clockLineAndWatch false).bu.bxSeq = 1 ∧ (p.clockLineAndWatch false).au.causes = 0x22#8 ∧
      (p.clockLineAndWatch true).tu.state = .tripped ∧ (p.clockLineAndWatch true).au.causes = 0x3B#8 := by
  decide +kernel

/-- A NOP with 32 padding bytes and its frame of 34. -/
theorem witness_FramesReadBackAsTheirCommands :
    (Instr.nop (List.replicate 32 0#8)).wellFormed = true ∧
      encodeFrame (.nop (List.replicate 32 0#8)) = some (List.replicate 33 0#8 ++ [0xFF#8]) := by decide

theorem witness_PassingFramesAreTheirCommandsFrames :
    judgeFrame (bytesBits [0x31#8, 0xCE#8]) = .ok .tripNow := by rfl

/-- Frames at each exit of R166: 7 left-over bits; one byte; a bad check byte; no such code; one operand byte too many for
PT START; and a frame that passes. -/
theorem witness_FrameIsJudgedInOrder : State.reset.ml.frame ≠ .discarding ∧ (List.replicate 7 true).length < 8 ∧
    [0x21#8].length < 2 ∧
    [0x21#8, 0xDF#8].getLast? ≠ some (~~~ [0x21#8, 0xDF#8].dropLast.foldl (· ^^^ ·) 0#8) ∧
    [0x02#8, 0xFD#8].getLast? = some (~~~ [0x02#8, 0xFD#8].dropLast.foldl (· ^^^ ·) 0#8) ∧
    commandRow 0x02#8 = none ∧
    [0x21#8, 0x00#8, 0xDE#8].getLast? = some (~~~ [0x21#8, 0x00#8, 0xDE#8].dropLast.foldl (· ^^^ ·) 0#8) ∧
    commandRow 0x21#8 = some ⟨0x21#8, 0, 0, 0⟩ := by decide +kernel

theorem witness_ResponseGoesOutUnderTheNextFrame :
    encodeFrame .softReset = some [0x7F#8, 0x80#8] ∧ encodeFrame .ptStart = some [0x21#8, 0xDE#8] ∧
      commandRow 0x21#8 = some ⟨0x21#8, 0, 0, 0⟩ ∧ busy.ml.frame ≠ .discarding := by decide +kernel

/-- A full reset with CSn low leaves a frame to discard. -/
theorem witness_FramesCutByAResetAreDiscarded : (after (.fullReset true) busy).ml.frame = .discarding ∧
    (encodeFrame .ptStart).isSome = true ∧ busy.ml.frame ≠ .discarding := by decide +kernel

theorem witness_FullResetRestoresEveryBlock : encodeFrame .ptStart = some [0x21#8, 0xDE#8] := by decide

theorem witness_SoftResetTakesEveryBlocksPart : busy.ml.frame ≠ .discarding := by decide +kernel

theorem witness_NopChangesOnlyTheLink : busy.ml.frame ≠ .discarding ∧ (List.replicate 32 0#8).length ≤ 32 ∧
    32 < (List.replicate 33 0#8).length := by decide +kernel

theorem witness_QueriesReportAndChangeNothing : busy.ml.frame ≠ .discarding ∧ (15#8).toNat = (15 : Slot).val ∧
    busy.au.refusal = none := by decide +kernel

/-- With a refusal record, READ REFUSAL has something to report. -/
theorem witness_refusal_record :
    (after .hostTakeInService (asked busy (writeAt 0x01F005))).au.refusal =
      some { port := .host, addr := 0x01F005, reason := .stampWrite } := by decide +kernel

/-- A command that is not done; a frame that fails; the slot operands 16 and 255. -/
theorem witness_RefusedCommandsChangeOnlyTheLink :
    (after (.hold 0#8) busy).ml.response.status ≠ 0x00#8 ∧ (encodeFrame (.hold 0#8)).isSome = true ∧
      judgeFrame (bytesBits [0x21#8]) = .error .badLength ∧ busy.ml.frame ≠ .discarding ∧
      16 ≤ (16#8).toNat ∧ 16 ≤ (255#8).toNat := by
  refine ⟨by decide +kernel, by decide, rfl, by decide +kernel, by decide, by decide⟩

/-! #### The window table -/

/-- The DEFINE of section 11.6 fits; with the size exponent 15 it does not. -/
theorem define0_fits : define0.Fits := by constructor <;> first | decide | (unfold baseFits; decide)
theorem define0_exponent : ¬ ({ define0 with sizeExp := 15#8 } : DefineOperands).Fits :=
  fun h => absurd h.exponent (by decide)

/-- A DEFINE whose logical range takes in the last word of slot 2's bank B. -/
def defineOver : DefineOperands :=
  { define0 with sizeExp := 0x05#8, closing := 0x001F#16, logical := 0x0300E0#24, bankA := 0x0300E0#24 }

theorem witness_DefineIsCheckedInOrder : busy.ml.frame ≠ .discarding ∧ define0.slot.toNat = (0 : Slot).val ∧
    (busy.window 2).life = .active ∧ (busy.window 0).life = .unused ∧
    ¬ ({ define0 with sizeExp := 15#8 } : DefineOperands).Fits ∧
    defineOver.Fits ∧ busy.BreaksOverlapLaw 0 defineOver.descriptor :=
  ⟨by decide +kernel, by decide, by decide +kernel, by decide +kernel, define0_exponent,
    by constructor <;> first | decide | (unfold baseFits; decide),
    .inr ⟨2, by decide, by decide +kernel, table2, by decide +kernel, ⟨0x0300E0, 32⟩, by decide +kernel,
      ⟨0x030080, 128⟩, by decide +kernel, 0x0300FF, by decide⟩⟩

/-- In the busy state the DEFINE of section 11.6 meets no other region. -/
theorem witness_DefineLoadsTheSlot : busy.ml.frame ≠ .discarding ∧ define0.slot.toNat = (0 : Slot).val ∧
    (busy.window 0).life = .unused ∧ define0.Fits ∧ ¬ busy.BreaksOverlapLaw 0 define0.descriptor ∧ busy.Lawful := by
  refine ⟨by decide +kernel, by decide, by decide +kernel, define0_fits, ?_, busy_lawful⟩
  have apart : ∀ r t : Region, r.disjoint t = true → ¬ r.meets t := by
    intro r t h ⟨n, h1, h2, h3, h4⟩
    simp [Region.disjoint] at h
    omega
  rintro (h | ⟨j, hj, hl, e, he, r, hr, t, ht, hm⟩)
  · exact h ((by decide +kernel : define0.descriptor.claimed.Pairwise fun r t => r.disjoint t = true).imp (apart _ _))
  · have h : ∀ j, j ≠ 0 → ∀ e ∈ (busy.window j).desc, ∀ r ∈ define0.descriptor.claimed, ∀ t ∈ e.claimed,
        r.disjoint t = true := by decide +kernel
    exact apart r t (h j hj e he r hr t ht) hm

/-- A DEFINED window, and one that is not. -/
theorem witness_EnablePrimesTheWindow :
    (2#8).toNat = (2 : Slot).val ∧ ((with2 { record2 with life := .defined }).window 2).life = .defined ∧
      ((with2 { record2 with life := .defined }).window 2).desc = some table2 ∧
      ((with2 record2).window 2).life ≠ .defined ∧ (with2 record2).ml.frame ≠ .discarding := by decide +kernel

theorem witness_HoldAndReleaseMoveOnlyTheLifecycle :
    (busy.window 2).life = .active ∧ ((with2 { record2 with life := .held }).window 2).life = .held ∧
      (2#8).toNat = (2 : Slot).val := by decide +kernel

/-- Slot 3 of the busy state, ACTIVE with its copy's access out; and a slot that is not in service. -/
theorem witness_DisablePurgesTheWindow : busy.ml.frame ≠ .discarding ∧ (3#8).toNat = (3 : Slot).val ∧
    (busy.window 3).life = .active ∧ busy.re.inFlight = some { slot := 3, seg := 5 } ∧
    busy.sw.queue.head? = some record4 ∧ (busy.window 0).life = .unused := by decide +kernel

theorem witness_ClearFreesTheSlot : (2#8).toNat = (2 : Slot).val ∧
    ((with2 { record2 with life := .defined }).window 2).life = .defined ∧
    ((with2 record2).window 2).life ≠ .defined := by decide +kernel

/-- Slot 2 of the busy state has an update; slot 3 has none. -/
theorem witness_AbortHandsTheDirtySetOver : busy.ml.frame ≠ .discarding ∧ (2#8).toNat = (2 : Slot).val ∧
    (busy.window 2).life = .active ∧ (busy.window 2).phase ≠ .clean ∧ QueueLawful busy ∧
    ¬ (((busy.window 3).life = .active ∨ (busy.window 3).life = .held) ∧ (busy.window 3).phase ≠ .clean) :=
  ⟨by decide +kernel, by decide, by decide +kernel, by decide +kernel, busy_queue, by decide +kernel⟩

theorem witness_DescriptorsAndGenerationsAreKept : (Instr.windowTakeBoundary 2).wellFormed = true ∧
    exec (.windowTakeBoundary 2) busy = .next (busy.takeBoundary 2) ∧ State.reset.pending = [] ∧
    step State.reset = .next State.reset.tick := ⟨rfl, rfl, rfl, rfl⟩

/-! #### Boundaries -/

theorem witness_ForcedBoundaryIsDelivered : busy.ml.frame ≠ .discarding ∧ (0#8).toNat = Source.pt.code ∧
    (1#8).toNat = Source.bx.code ∧ 1 < (2#8).toNat := by decide +kernel

/-- Each BAD_PARAM case at its edge; settings that fit a stopped timer; and for the running one of the busy state the same
settings and others. -/
theorem witness_PtSetTakesItsSettings : busy.ml.frame ≠ .discarding ∧ 7 < (8#8).toNat ∧ 1 < (2#8).toNat ∧
    2 < (3#8).toNat ∧ (7#8).toNat ≤ 7 ∧ (1#8).toNat = TimerMode.tri.code ∧ (2#8).toNat = Selection.both.code ∧
    (1#16) ≠ 0 ∧ State.reset.bu.pt.running = false ∧ busy.bu.pt.running = true ∧
    ((2#8).toNat = busy.bu.pt.exponent ∧ TimerMode.tri = busy.bu.pt.mode ∧ Selection.both = busy.bu.pt.selection) ∧
    ¬ ((7#8).toNat = busy.bu.pt.exponent) := by decide +kernel

theorem witness_PtStartAndStop : State.reset.ml.frame ≠ .discarding ∧ State.reset.bu.pt.running = false ∧
    busy.bu.pt.running = true ∧ BoundaryLawful busy := ⟨by decide, by decide, by decide +kernel, busy_boundary⟩

/-- Lawful and stopped at once: the timer of the busy state after PT STOP. -/
theorem witness_stopped_timer : BoundaryLawful { busy with bu := { busy.bu with pt := busy.bu.pt.stop } } ∧
    busy.bu.pt.stop.running = false := ⟨by constructor <;> constructor <;> decide +kernel, by decide +kernel⟩

theorem witness_LineSetAndWatchSetRestart : busy.ml.frame ≠ .discarding ∧
    ((7#8).toNat ≤ 7 ∧ ((16#8).toNat = 1 ∨ (16#8).toNat = 4 ∨ (16#8).toNat = 8 ∨ (16#8).toNat = 16)) ∧
    ¬ ((8#8).toNat ≤ 7) ∧ ((7#8).toNat ≤ 7 ∧ (1#16) ≠ 0 ∧ (1#16).toNat < (2#16).toNat) ∧
    ¬ ((2#16).toNat < (2#16).toNat) := by decide +kernel

/-- A running timer at a count, in a mode and a direction, with P = 4. -/
def timed (mode : TimerMode) (direction : Direction) (count : Nat) : State :=
  { busy with bu := { busy.bu with pt := { busy.bu.pt with mode := mode, direction := direction, count := count } } }

/-- Every row at its edge: below P and at P in SAW; one below the peak and at it, one above the trough and at it in TRI. -/
theorem witness_CountStepFollowsTheMode :
    (timed .saw .up 3).bu.pt.running = true ∧ (timed .saw .up 3).bu.pt.count < (timed .saw .up 3).bu.pt.period ∧
      (timed .saw .up 4).bu.pt.count = (timed .saw .up 4).bu.pt.period ∧
      (timed .tri .up 2).bu.pt.count + 1 < (timed .tri .up 2).bu.pt.period ∧
      (timed .tri .up 3).bu.pt.count + 1 = (timed .tri .up 3).bu.pt.period ∧
      1 < (timed .tri .down 2).bu.pt.count ∧ (timed .tri .down 1).bu.pt.count = 1 := by decide +kernel

theorem witness_OnePeriodDeliversItsBoundaries : (timed .saw .up 0).bu.pt.running = true ∧
    (timed .saw .up 0).bu.pt.count = 0 ∧ (timed .saw .up 0).bu.pt.direction = .up ∧
    (timed .tri .up 0).bu.pt.mode = .tri ∧ 1 ≤ (timed .tri .up 0).bu.pt.period := by decide +kernel

/-- The line filter one differing sample short of its depth, HIGH in the busy state and LOW here; and a watch at MIN, one
below it, with its first flag set, and disabled. -/
def lineLow (run count : Nat) (enable first : Bool) : State :=
  { busy with bu := { busy.bu with line := { busy.bu.line with level := .low, run := run },
                                   watch := { busy.bu.watch with count := count, enable := enable, first := first } } }

theorem witness_LineSampleFiltersAndJudgesEdges :
    Level.high = busy.bu.line.level ∧ Level.low ≠ busy.bu.line.level ∧ busy.bu.line.depth ≤ busy.bu.line.run + 1 ∧
      Level.high ≠ (lineLow 14 90 true false).bu.line.level ∧
      (lineLow 14 90 true false).bu.line.run + 1 < (lineLow 14 90 true false).bu.line.depth ∧
      (lineLow 15 90 true false).bu.line.depth ≤ (lineLow 15 90 true false).bu.line.run + 1 ∧
      (lineLow 15 90 true false).bu.watch.min ≤ (lineLow 15 90 true false).bu.watch.count ∧
      (lineLow 15 89 true false).bu.watch.count < (lineLow 15 89 true false).bu.watch.min ∧
      (lineLow 15 0 true true).bu.watch.first = true ∧ (lineLow 15 0 false true).bu.watch.enable = false := by
  decide +kernel

theorem witness_WatchStepCountsOrLosesTheBoundary :
    busy.bu.watch.enable = true ∧ busy.bu.watch.first = false ∧ busy.bu.watch.max ≤ busy.bu.watch.count + 1 ∧
      (lineLow 0 108 true false).bu.watch.count + 1 < (lineLow 0 108 true false).bu.watch.max ∧
      (lineLow 0 0 false false).bu.watch.enable = false ∧ (lineLow 0 0 true true).bu.watch.first = true := by decide +kernel

/-- A COMPLETE window of cadence 2 at its first and at its second boundary; a CLEAN one; and a HELD one, which is late. -/
theorem witness_WindowTakesItsBoundary :
    let b : Boundary := { source := .pt, seq := 9 }
    let second : Window := { updating .complete with cadenceCount := 1, inbox := [b] }
    (busy.window 3).inbox = [] ∧ (busy.window 2).inbox = [b] ∧ (busy.window 2).desc = some table2 ∧
      table2.cadence ≤ (busy.window 2).cadenceCount + 1 ∧ (busy.tu.entry 2).restorePending = true ∧
      ((with2 { second with cadenceCount := 0 }).window 2).cadenceCount + 1 < table2.cadence ∧
      ((with2 { second with phase := .clean }).window 2).phase ≠ .complete ∧
      ((with2 second).tu.entry 2).restorePending = false ∧ ((with2 second).window 2).phase = .complete ∧
      ((with2 second).window 2).life = .active ∧ (with2 second).re.queue = [] ∧
      ((with2 second).tu.entry 2).view = .live ∧ ((with2 { second with life := .held }).window 2).life = .held := by
  decide +kernel

/-! #### Trips and attention -/

theorem witness_TripSetReplacesTheSettings : busy.ml.frame ≠ .discarding ∧ (7#8).toNat ≤ 7 ∧ (16#8).toNat = 16 ∧
    (1#8).toNat ≤ 1 ∧ ¬ ((2#8).toNat ≤ 1) ∧ ¬ ((8#8).toNat ≤ 7) := by decide +kernel

theorem witness_TripDemandTakesTheTrip : busy.tu.state ≠ .tripped ∧ (after .tripNow busy).tu.state = .tripped ∧
    busy.ml.frame ≠ .discarding := by decide +kernel

theorem witness_TripSampleFiltersTheLine :
    Level.low = busy.tu.filter.level ∧ Level.high ≠ busy.tu.filter.level ∧
      busy.tu.filter.run + 1 < busy.tu.filter.depth ∧
      (let s : State := { busy with tu := { busy.tu with filter := { busy.tu.filter with run := 3 } } }
       s.tu.filter.depth ≤ s.tu.filter.run + 1 ∧ s.tu.lineTrip = true) := by decide +kernel

/-- NORMAL; TRIPPED with the line ASSERTED; TRIPPED with it DEASSERTED and a SAFE entry, and with none. -/
theorem witness_TripReleaseStartsTheReturn :
    let tripped : State := { busy with tu := { busy.tu with state := .tripped } }
    let bare : State := { State.reset with tu := { State.reset.tu with state := .tripped, reason := some .line } }
    State.reset.tu.state ≠ .tripped ∧
      ({ tripped.tu with filter := { tripped.tu.filter with level := .high } } : TripUnit).filter.level = .high ∧
      tripped.tu.lineTrip = true ∧ tripped.tu.state = .tripped ∧
      ¬ (tripped.tu.lineTrip = true ∧ tripped.tu.filter.level = .high) ∧ (tripped.tu.entry 2).view = .safe ∧
      bare.tu.state = .tripped ∧ (∀ k, (bare.tu.entry k).view = .live) := by decide +kernel

theorem witness_AttentionCommandsActOnTheirOwnItem : busy.ml.frame ≠ .discarding ∧ State.reset.au.faults = [] ∧
    busy.au.faults.length = 1 := by decide +kernel

theorem witness_AtnFollowsCausesAndEnables : busy.au.enables &&& Cause.lateFlip.mask = 0#8 ∧
    busy.au.enables &&& Cause.trip.mask ≠ 0#8 ∧ busy.atn = true := by decide +kernel

theorem witness_CausesStayUntilCleared : Instr.watchStep.wellFormed = true ∧
    exec .watchStep busy = .next busy.watchCount ∧ busy.au.present .memoryFault = true ∧
    ({ busy with pending := [] } : State).pending = [] ∧
    step { busy with pending := [] } = .next (State.tick { busy with pending := [] }) :=
  ⟨rfl, rfl, by decide +kernel, rfl, rfl⟩

/-! #### The memory port -/

theorem witness_MemorySetAppliesToLaterGrants : busy.ml.frame ≠ .discarding ∧ (4 ≤ (4#8).toNat ∧ (4#8).toNat ≤ 15) ∧
    (4 ≤ (15#8).toNat ∧ (15#8).toNat ≤ 15) ∧ ((3#8) ≠ 0 ∧ (3#8).toNat < 4) ∧ 15 < (16#8).toNat := by decide +kernel

/-- The busy state with its memory port free, and each client asking for an access. -/
def free : State :=
  { busy with
    mp := { busy.mp with awaiting := none }
    re := { busy.re with copy := some { index := 3, step := .read, stage := .requested } }
    hp := { busy.hp with service := .requesting { addr := 0x200000, slot := none, staged := false } }
    cp := { busy.cp with service := .requesting { addr := 0x200001, slot := none, staged := false } } }

/-- The free port with some of its clients silent. -/
def quiet (cp sw hp re : Bool) (passover : Nat) : State :=
  { free with
    cp := if cp then { free.cp with service := .idle } else free.cp
    sw := if sw then { free.sw with queue := [] } else free.sw
    hp := if hp then { free.hp with service := .idle } else free.hp
    re := if re then { free.re with copy := none } else free.re
    mp := { free.mp with passover := passover } }

/-- One line for each clause: an access out; nobody asks; CP; SW; HP alone; HP over RE at 15; RE over HP at 16; RE alone. -/
theorem witness_GrantsFollowRankAndPassover :
    let asks := fun s : State => ((portRequest .cp s.cp).isSome, s.sw.access.isSome, (portRequest .hp s.hp).isSome,
      s.copyRequest.isSome)
    busy.mp.awaiting ≠ none ∧ free.mp.awaiting = none ∧ asks (quiet true true true true 0) = (false, false, false, false) ∧
      asks free = (true, true, true, true) ∧ asks (quiet true false false false 0) = (false, true, true, true) ∧
      asks (quiet true true false true 0) = (false, false, true, false) ∧
      asks (quiet true true false false 15) = (false, false, true, true) ∧
      (quiet true true false false 15).mp.passover < 16 ∧ (quiet true true false false 16).mp.passover = 16 ∧
      asks (quiet true true true false 0) = (false, false, false, true) ∧ free.sw.queue ≠ [] := by decide +kernel

/-- The stamp record waits at a free memory port, in a state that meets its laws. -/
theorem witness_stamp_before_copy : MemoryLawful free ∧ free.mp.awaiting = none ∧ free.sw.queue ≠ [] :=
  ⟨by constructor <;> decide +kernel, by decide +kernel, by decide +kernel⟩

/-- Each client is the one granted. -/
theorem witness_GrantIssuesTheClientsAccess :
    let chosen := fun s : State => s.grantChoice.map (·.1.client)
    free.mp.awaiting = none ∧ chosen free = some .cp ∧ chosen (quiet true false false false 0) = some .sw ∧
      chosen (quiet true true false false 0) = some .hp ∧ chosen (quiet true true false false 16) = some .re ∧
      free.sw.step = .word0 ∧ StampWriter.initial.step = .word1 ∧ record4.lateCount ≤ 255 := by
  decide +kernel

theorem witness_StrayAnswersAreDiscarded : State.reset.mp.awaiting = none ∧ (∀ a ∈ busy.mp.awaiting, a.tag ≠ 0) ∧
    ({ copyRead with limit := none } : AwaitingAccess).limit = none := by decide +kernel

/-- An access out; its FAULT and its timeout; a fault list with room, and one that is full. -/
theorem witness_FailuresLeaveOneFaultRecord : busy.mp.awaiting = some copyRead ∧
    copyRead.FailsBy (.memoryAnswer 15 .fault) .fault ∧ copyRead.FailsBy .accessTimeout .timeout ∧
    busy.au.faults.length < 4 ∧ 4 ≤ (List.replicate 4 (copyRead.failure .fault)).length :=
  ⟨by decide +kernel, .inl ⟨rfl, rfl⟩, .inr ⟨rfl, rfl, rfl⟩, by decide +kernel, by decide⟩

/-- An access of a client, out with tag 3. -/
def outFor (c : Client) : AwaitingAccess := { copyRead with access := { copyRead.access with client := c }, tag := 3 }

/-- A port waiting for its answer to a staged closing write of slot 2, STAGING. -/
def waiting : State :=
  { with2 (updating .staging) with
    hp := { queue := [writeAt 0x03007F],
            service := .awaiting { addr := 0x0300FF, slot := some 2, staged := true }, offers := [] }
    cp := { queue := [readAt 0x030000], service := .awaiting { addr := 0x030000, slot := some 2, staged := false },
            offers := [] } }

theorem witness_PortsAnswerTheirAccess :
    ({ waiting with mp := { waiting.mp with awaiting := some (outFor .cp) } } : State).mp.awaiting = some (outFor .cp) ∧
      (outFor .cp).access.client = .cp ∧ (outFor .hp).access.client = .hp ∧ waiting.cp.queue = [readAt 0x030000] ∧
      waiting.cp.service = .awaiting { addr := 0x030000, slot := some 2, staged := false } ∧
      waiting.hp.queue = [writeAt 0x03007F] ∧
      waiting.hp.service = .awaiting { addr := 0x0300FF, slot := some 2, staged := true } ∧
      (waiting.window 2).phase = .staging ∧
      (0x0300FF : Addr) = table2.bankBase (waiting.window 2).live.other + BitVec.ofNat 22 table2.closingOffset ∧
      (outFor .hp).FailsBy (.memoryAnswer 3 .fault) .fault :=
  ⟨rfl, rfl, rfl, rfl, rfl, rfl, rfl, by decide +kernel, by decide +kernel, .inl ⟨rfl, rfl⟩⟩

/-! #### The resync engine and the stamp writer -/

/-- The busy state with nothing in flight; and with the host's write to the last word of the head's segment waiting. -/
def landed : State := { busy with re := { busy.re with copy := none } }
def blocked : State :=
  { landed with hp := { queue := [writeAt 0x040017],
                        service := .requesting { addr := 0x040097, slot := some 3, staged := true }, offers := [] } }

theorem witness_HeadIsTakenInFlight : WindowsLawful busy ∧ busy.re.copy ≠ none ∧ State.reset.re.queue = [] ∧
    landed.re.copy = none ∧ landed.re.queue.head? = some { slot := 3, seg := 5 } ∧
    blocked.WaitingWriteInto { slot := 3, seg := 5 } ∧ ¬ landed.WaitingWriteInto { slot := 3, seg := 5 } := by
  refine ⟨busy_windows, by decide +kernel, by decide, by decide +kernel, by decide +kernel, ?_, ?_⟩
  · exact ⟨table3, by decide +kernel, blocked.hp, by simp, _, _, rfl, rfl, rfl, .b, 3, by decide, by decide +kernel⟩
  · rintro ⟨d, _, q, hq, t, r, hs, _⟩
    simp only [List.mem_cons, List.not_mem_nil, or_false] at hq
    rcases hq with rfl | rfl
    · have : landed.hp.service = .parked := by decide +kernel
      rw [this] at hs; cases hs
    · have : landed.cp.service = .idle := by decide +kernel
      rw [this] at hs; cases hs

/-- The read of the last word is out; then its write; and a write that is not the last. -/
theorem witness_CopyRunsWordByWord : busy.mp.awaiting = some copyRead ∧ copyRead.access.client = .re ∧
    busy.re.orphaned = false ∧ busy.re.copy = some { index := 3, step := .read, stage := .granted } ∧
    busy.re.queue.head? = some { slot := 3, seg := 5 } ∧ (busy.window 3).desc = some table3 ∧
    table3.segLen ≤ 3 + 1 ∧ 2 + 1 < table3.segLen := by decide +kernel

theorem witness_CopyFailureFaultsTheWindow : busy.mp.awaiting = some copyRead ∧ copyRead.access.client = .re ∧
    busy.re.orphaned = false ∧ (busy.re.copy.isSome = true ∧ busy.re.queue ≠ []) ∧
    copyRead.FailsBy .accessTimeout .timeout ∧ (after (.disable 3#8) busy).re.orphaned = true :=
  ⟨by decide +kernel, rfl, by decide +kernel, by decide +kernel, .inr ⟨rfl, rfl, rfl⟩, by decide +kernel⟩

/-- A stamp record's write is out at each word; and, its window disabled, a discarded one. -/
theorem witness_StampWriterWritesOrDropsItsRecord :
    let s : State := { busy with mp := { busy.mp with awaiting := some (outFor .sw) },
                                 sw := { busy.sw with stage := .granted } }
    s.mp.awaiting = some (outFor .sw) ∧ (outFor .sw).access.client = .sw ∧ s.sw.discarded = false ∧ s.sw.queue ≠ [] ∧
      s.sw.step = .word0 ∧ StampWriter.initial.step = .word1 ∧ (after (.disable 4#8) s).sw.discarded = true := by
  decide +kernel

/-! #### The request path -/

/-- The reset state with a number of requests and of offers held off at the host port. -/
def filled (n m : Nat) : State :=
  { State.reset with hp := { queue := List.replicate n (readAt 0), service := .idle, offers := List.replicate m (readAt 1) } }

/-- One below room for four and at it, with and without offers held off; a full queue at a command and at a clock. -/
theorem witness_OffersAreAcceptedWhileThereIsRoom :
    (filled 3 0).hp.queue.length + (filled 3 0).hp.offers.length < 4 ∧
      4 ≤ (filled 3 1).hp.queue.length + (filled 3 1).hp.offers.length ∧ (filled 4 1).hp.queue.length = 4 ∧
      (∀ b, Instr.softReset ≠ .fullReset b) ∧ exec .hostTakeInService (filled 4 1) = .next (filled 4 1).hostTake ∧
      (filled 4 1).pending = [] ∧ step (filled 4 1) = .next (filled 4 1).tick := by
  refine ⟨?_, ?_, ?_, ?_, rfl, rfl, rfl⟩ <;> simp [filled]

/-- The window of slot 2 in each lifecycle, with or without an entry of the first and the last segment. -/
theorem witness_HostWritesAreTranslated :
    let last := writeAt 0x03007F
    (asked (with2 record2) last).HostTranslates .hostTakeInService last ∧ opIsWrite last.op = true ∧
      (with2 record2).classify last.addr = .logical 2 0x7F ∧ ((with2 record2).window 2).desc = some table2 ∧
      (with2 record2).re.queue = [] ∧
      ((with2 { record2 with life := .defined }).window 2).life = .defined ∧
      ((with2 { record2 with life := .held }).window 2).life = .held ∧
      ((with2 { record2 with life := .faulted }).window 2).life = .faulted ∧
      busy.re.copy ≠ none ∧ busy.re.queue.head? = some { slot := 3, seg := table3.segmentOf 0x14 } ∧
      busy.classify 0x040014 = .logical 3 0x14 :=
  ⟨⟨rfl, rfl, .inl ⟨rfl, rfl⟩⟩, rfl, by decide +kernel⟩

/-- A parked write that is released is about to be translated too. -/
theorem witness_released_write :
    ({ busy with re := { busy.re with awaited := none } } : State).HostTranslates .parkedWriteTranslateAfresh
      (writeAt 0x040014) := ⟨by decide +kernel, by decide, .inr ⟨rfl, by decide +kernel, by decide +kernel⟩⟩

/-- A read of the logical range, of the concealed region in DEFINED and in service, of a stamp pair, and elsewhere; a
write with no lane; an empty and a busy port; a parked write still awaited. -/
theorem witness_HostReadsAndOtherAccessesAreTranslated :
    let dead : Request := { addr := 0, op := .write 0#4 0 }
    (asked (with2 record2) (readAt 0x03007F)).HostTranslates .hostTakeInService (readAt 0x03007F) ∧
      (with2 record2).classify 0x03007F = .logical 2 0x7F ∧ (with2 record2).classify 0x030080 = .concealed 2 ∧
      (with2 record2).classify 0x0300FF = .concealed 2 ∧ (with2 record2).classify 0x01F003 = .stampPair 2 ∧
      (with2 record2).classify 0x030100 = .elsewhere ∧ (with2 { record2 with life := .defined }).classify 0x030080 = .concealed 2 ∧
      ((asked State.reset dead).hp.queue.head? = some dead ∧ opNoLane dead.op = true) ∧
      State.reset.hp.queue = [] ∧ busy.hp.service ≠ .idle ∧ busy.re.awaited ≠ none :=
  ⟨⟨rfl, rfl, .inl ⟨rfl, rfl⟩⟩, by decide +kernel⟩

/-- The consumer's requests at the edges of each class; slot 2 in view LIVE, and SAFE with no safe region and with one; a
port with no request, and one that is busy. -/
theorem witness_ConsumerRequestsAreTranslated :
    let s := wanted (with2 record2) (readAt 0x030000)
    s.cp.service = .idle ∧ s.cp.queue = [readAt 0x030000] ∧ opNoLane (readAt 0x030000).op = false ∧
      opNoLane (.write 0#4 0) = true ∧ s.classify 0x030000 = .logical 2 0 ∧ (s.window 2).desc = some table2 ∧
      (s.tu.entry 2).view = .live ∧ (busy.tu.entry 2).view = .safe ∧ (busy.window 2).life = .active ∧
      table2.safeBase = none ∧ ({ table2 with safeBase := some 0x030100 } : Descriptor).safeBase = some 0x030100 ∧
      s.classify 0x030080 = .concealed 2 ∧ s.classify 0x01F002 = .stampPair 2 ∧ s.classify 0x02FFFF = .elsewhere ∧
      State.reset.cp.queue = [] ∧ waiting.cp.service ≠ .idle := by
  decide +kernel

/-- The first and last words of slot 2's regions, and a word that no window claims. -/
theorem witness_AddressHasOneClass : WindowsLawful busy ∧ NoOverlap busy ∧ (busy.window 2).desc = some table2 ∧
    table2.logicalRange.holds 0x030000 = true ∧ table2.logicalRange.holds 0x03007F = true ∧
    (⟨0x030080, 128⟩ ∈ table2.concealed ∧ (⟨0x030080, 128⟩ : Region).holds 0x0300FF = true) ∧
    (⟨0x01F002, 2⟩ ∈ table2.stampRange ∧ (⟨0x01F002, 2⟩ : Region).holds 0x01F003 = true) ∧
    (∀ k, ∀ d ∈ (busy.window k).desc, ∀ region ∈ d.claimed, region.holds 0x030100 = false) :=
  ⟨busy_windows, busy_overlap, by decide +kernel, by decide, by decide, by decide, by decide, by decide +kernel⟩

theorem witness_EachRequestIsAnsweredOnceInOrder : (∀ b, Instr.consumerTakeInService ≠ .fullReset b) ∧
    exec .consumerTakeInService busy = .next busy.consumerTake ∧ State.reset.pending = [] ∧
    step State.reset = .next State.reset.tick :=
  ⟨by simp, rfl, rfl, rfl⟩

end
end

section
/-! SUPPORT. DEFINE (R6 to R8): its overlap test against the law of R4, its operand checks against `Fits`, and what a
slot that is out of service has in the queues and in the view table. -/
namespace Sys2Proof.Machine

/-! ### The overlap test (R4, R7) -/

/-- A region without words would meet nothing and still not count as disjoint, so both have to hold a word. -/
theorem Region.disjoint_iff_not_meets {r t : Region} (hr : 0 < r.size) (ht : 0 < t.size) :
    r.disjoint t = true ↔ ¬ r.meets t := by
  simp only [Region.disjoint, Region.meets, Bool.or_eq_true, decide_eq_true_eq]
  constructor
  · rintro h ⟨n, hn⟩
    omega
  · intro h
    by_contra apart
    exact h ⟨max r.base t.base, by omega⟩

theorem Descriptor.size_pos (d : Descriptor) : 0 < d.size := Nat.two_pow_pos _

theorem Descriptor.size_pos_of_mem_claimed {d : Descriptor} {r : Region} (h : r ∈ d.claimed) : 0 < r.size := by
  have := d.size_pos
  simp only [Descriptor.claimed, Descriptor.concealed, Descriptor.bankAApart, Descriptor.safeRange,
    Descriptor.stampRange, List.cons_append, List.mem_cons, List.mem_append, List.mem_ite_nil_left,
    List.mem_map, List.not_mem_nil, or_false] at h
  obtain rfl | (⟨-, rfl⟩ | rfl | ⟨_, -, rfl⟩) | ⟨_, -, rfl⟩ := h
  case inr.inr => exact Nat.two_pos
  all_goals exact this

theorem pairwiseDisjoint_iff {rs : List Region} :
    pairwiseDisjoint rs = true ↔ rs.Pairwise fun r t => r.disjoint t = true := by
  induction rs with
  | nil => simp [pairwiseDisjoint]
  | cons r rs ih => simp [pairwiseDisjoint, ih]

theorem pairwiseDisjoint_claimed_iff {d : Descriptor} :
    pairwiseDisjoint d.claimed = true ↔ d.claimed.Pairwise fun r t => ¬ r.meets t := by
  rw [pairwiseDisjoint_iff]
  exact List.Pairwise.iff_of_mem fun hr ht =>
    Region.disjoint_iff_not_meets (d.size_pos_of_mem_claimed hr) (d.size_pos_of_mem_claimed ht)

theorem crossDisjoint_claimed_eq_false_iff {d e : Descriptor} :
    crossDisjoint d.claimed e.claimed = false ↔ ∃ r ∈ d.claimed, ∃ t ∈ e.claimed, r.meets t := by
  simp only [crossDisjoint, List.all_eq_false, Bool.not_eq_true]
  refine exists_congr fun r => and_congr_right fun hr => exists_congr fun t => and_congr_right fun ht => ?_
  rw [← Bool.not_eq_true,
    Region.disjoint_iff_not_meets (Descriptor.size_pos_of_mem_claimed hr) (Descriptor.size_pos_of_mem_claimed ht),
    not_not]

/-- DEFINE's overlap test finds exactly the breaks of the overlap law. -/
theorem overlaps_iff_breaksOverlapLaw {s : State} {k : Slot} {d : Descriptor} :
    s.overlaps k d = true ↔ s.BreaksOverlapLaw k d := by
  simp only [State.overlaps, State.BreaksOverlapLaw, Bool.or_eq_true, Bool.not_eq_true', ← Bool.not_eq_true,
    pairwiseDisjoint_claimed_iff]
  refine or_congr_right ?_
  simp [Option.any_eq_true, crossDisjoint_claimed_eq_false_iff, and_assoc]

/-! ### DEFINE's operands (R6) -/

theorem addrOf_of_le {v : BitVec 24} (h : v.toNat ≤ 0x3FFFFF) : addrOf v = some (v.setWidth 22) := if_pos h

/-- An address operand in range is read without loss. -/
theorem toNat_setWidth_of_le {v : BitVec 24} (h : v.toNat ≤ 0x3FFFFF) : (v.setWidth 22).toNat = v.toNat := by
  rw [BitVec.toNat_setWidth]
  omega

theorem alignedTo_of_baseFits {size : Nat} {v : BitVec 24} (h : baseFits size v) :
    alignedTo size (v.setWidth 22) = true := by
  simp [alignedTo, toNat_setWidth_of_le h.2, h.1]

/-- A base that fits passes DEFINE's range and alignment checks. -/
theorem addrOf_any_alignedTo_of_baseFits {size : Nat} {v : BitVec 24} (h : baseFits size v) :
    (addrOf v).any (alignedTo size) = true := by
  simp [addrOf_of_le h.2, alignedTo_of_baseFits h]

/-- Operands that pass every BAD_PARAM check ask for the descriptor they spell. -/
theorem descriptorOf_of_fits {o : DefineOperands} (h : o.Fits) : descriptorOf o = some o.descriptor := by
  obtain ⟨exponent, reserved, cadence, closing, logical, bankA, bankB, safe, stamp, banks⟩ := h
  have banks' : o.bankB.setWidth 22 ≠ o.bankA.setWidth 22 := fun e => banks <| BitVec.eq_of_toNat_eq <| by
    rw [← toNat_setWidth_of_le bankB.2, ← toNat_setWidth_of_le bankA.2, e]
  have safe_eq : (if o.flags.getLsbD 4 then addrOf o.safe else none) = o.descriptor.safeBase :=
    ite_congr rfl (fun p => addrOf_of_le (safe p).2) fun _ => rfl
  have stamp_eq : (if o.flags.getLsbD 5 then addrOf o.stamp else none) = o.descriptor.stampAddr :=
    ite_congr rfl (fun p => addrOf_of_le (stamp p).2) fun _ => rfl
  simp only [descriptorOf, addrOf_of_le logical.2, addrOf_of_le bankA.2, addrOf_of_le bankB.2]
  rw [if_pos ⟨exponent.1, exponent.2, reserved.1, reserved.2, cadence, closing, alignedTo_of_baseFits logical,
    alignedTo_of_baseFits bankA, alignedTo_of_baseFits bankB, fun p => addrOf_any_alignedTo_of_baseFits (safe p),
    fun p => addrOf_any_alignedTo_of_baseFits (stamp p), banks'⟩, safe_eq, stamp_eq]
  rfl

/-- A DEFINE of a slot out of service that passes every check (R8). -/
theorem defineAt_of_fits {o : DefineOperands} {k : Slot} {s : State} (hw : (s.window k).life.inService = false)
    (hf : o.Fits) (hb : ¬ s.BreaksOverlapLaw k o.descriptor) :
    defineAt o k s = (s.setWindow k { (s.window k).restarted with
      desc := some o.descriptor, life := .defined, gen := 0, live := .a }, .done) := by
  simp [defineAt, hw, descriptorOf_of_fits hf, overlaps_iff_breaksOverlapLaw, hb]

/-! ### A slot out of service (R9) -/

theorem inService_eq_false_iff {l : Lifecycle} : l.inService = false ↔ l = .unused ∨ l = .defined := by
  cases l <;> simp [Lifecycle.inService]

theorem QueueLawful.no_entry {s : State} (h : QueueLawful s) {k : Slot} (hk : (s.window k).life.inService = false) :
    ∀ e ∈ s.re.queue, e.slot ≠ k := by
  rintro e he rfl
  rcases h.in_service e he with hl | hl <;> rw [hl] at hk <;> cases hk

theorem StampsLawful.no_record {s : State} (h : StampsLawful s) {k : Slot}
    (hk : (s.window k).life.inService = false) : ∀ r ∈ s.sw.queue, r.slot ≠ k := by
  rintro r hr rfl
  exact absurd (h.in_service r hr) (by simp [hk])

theorem ViewsLawful.entry_initial {s : State} (h : ViewsLawful s) {k : Slot}
    (hk : (s.window k).life.inService = false) : s.tu.entry k = .initial :=
  h.unguarded k (by simp [Window.guarded, hk])

/-! ### The statement -/

/-- Settles O15: the slot is out of service, so DEFINE loads it when its operands and its regions pass, and the laws
keep the queues and the view table free of it. -/
theorem defineLoadsTheSlot : Obligations.DefineLoadsTheSlot := by
  intro s o k hframe hslot hlife hfits hlaw
  have hk : (s.window k).life.inService = false := inService_eq_false_iff.2 hlife
  refine ⟨?_, fun lawful => ⟨lawful.queue.no_entry hk, lawful.stamps.no_record hk, lawful.views.entry_initial hk⟩⟩
  have hact : onSlot o.slot (defineAt o) s = _ := (onSlot_of_val hslot _ s).trans (defineAt_of_fits hk hfits hlaw)
  exact congrArg Host.Outcome.next (takeCommand_answered hframe (.define o) _ hact rfl)

end Sys2Proof.Machine
end

section
/-! SUPPORT. ABORT (R32): its two outcomes, and the resync queue after the dirty set has been handed over. -/
namespace Sys2Proof.Machine

/-! ### The queue after the hand-over -/

/-- A queue without duplicates holds at most one entry for each segment of a window. -/
theorem length_filter_slot_le {queue : List Entry} (h : queue.Nodup) (k : Slot) :
    (queue.filter (·.slot = k)).length ≤ 32 := by
  have seg_inj : ∀ e ∈ queue.filter (·.slot = k), ∀ e' ∈ queue.filter (·.slot = k), e.seg = e'.seg → e = e' := by
    rintro ⟨_, _⟩ he ⟨_, _⟩ he' rfl
    simp_all
  simpa using ((h.filter _).map_on seg_inj).length_le_card

/-- No segment is both queued and dirty (R24), so handing a window's dirty set over duplicates no entry. -/
theorem QueueLawful.append_dirty_nodup {s : State} (h : QueueLawful s) (k : Slot) :
    (s.re.append k (s.window k).dirty).queue.Nodup := by
  refine append_nodup h.nodup ?_
  rintro e he rfl
  exact h.not_dirty e he

/-! ### The command -/

/-- ABORT of a slot that exists is answered as the window table answers it. -/
theorem exec_abort {s t : State} {slot : Byte} {k : Slot} {r : Reply} (hframe : s.ml.frame ≠ .discarding)
    (hslot : slot.toNat = k.val) (hact : abortAt k s = (t, r)) (hml : t.ml = s.ml) :
    exec (.abort slot) s = .next (t.answered (.abort slot) r.status.code r.data) :=
  congrArg Host.Outcome.next
    (takeCommand_answered hframe (.abort slot) _ ((onSlot_of_val hslot abortAt s).trans hact) hml)

/-- Settles O20: the window table's two cases, each carried through the link; the law that no queued segment is dirty
keeps the longer queue free of duplicates. -/
theorem abortHandsTheDirtySetOver : Obligations.AbortHandsTheDirtySetOver := by
  intro s slot k hframe hslot
  constructor
  · intro hlife hphase
    exact ⟨_, exec_abort hframe hslot (if_pos ⟨hlife, hphase⟩) rfl, rfl, fun lawful =>
      have nodup := lawful.append_dirty_nodup k
      ⟨nodup, length_filter_slot_le nodup k⟩⟩
  · intro hnone
    exact exec_abort hframe hslot (if_neg hnone) rfl

end Sys2Proof.Machine
end

section
/-! SUPPORT. PT SET, PT START and PT STOP (R128, R130): what their operands read as, and what each does to the timer. -/
namespace Sys2Proof.Machine

/-! ### A command's answer (R167, R168) -/

/-- A command that the link takes while no frame is to be discarded is answered as its owner answers it. -/
theorem exec_answered {c : Instr} {act : State → State × Reply} {s t : State} {r : Reply}
    (harm : exec c s = .next (s.takeCommand c act)) (hframe : s.ml.frame ≠ .discarding) (hact : act s = (t, r))
    (hml : t.ml = s.ml) : exec c s = .next (t.answered c r.status.code r.data) :=
  harm.trans (congrArg Host.Outcome.next (takeCommand_answered hframe c act hact hml))

/-! ### Operands of a parameter command (section 11.5.1) -/

theorem onParam_of_some {α : Type} {operand : Option α} {x : α} (h : operand = some x)
    (act : α → State → State × Reply) (s : State) : onParam operand act s = act x s := by simp [onParam, h]

theorem onParam_of_none {α : Type} {operand : Option α} (h : operand = none)
    (act : α → State → State × Reply) (s : State) : onParam operand act s = (s, .fail .badParam) := by simp [onParam, h]

theorem exponentOf_of_le {b : Byte} (h : b.toNat ≤ 7) : exponentOf b = some b.toNat := if_pos h

theorem exponentOf_of_large {b : Byte} (h : 7 < b.toNat) : exponentOf b = none := if_neg h.not_ge

theorem modeOf_of_code {b : Byte} {mode : TimerMode} (h : b.toNat = mode.code) : modeOf b = some mode := by
  cases mode <;> simp [modeOf, h, TimerMode.code]

theorem modeOf_of_large {b : Byte} (h : 1 < b.toNat) : modeOf b = none := by
  unfold modeOf
  split
  · omega
  · omega
  · rfl

theorem selectionOf_of_code {b : Byte} {selection : Selection} (h : b.toNat = selection.code) :
    selectionOf b = some selection := by
  cases selection <;> simp [selectionOf, h, Selection.code]

theorem selectionOf_of_large {b : Byte} (h : 2 < b.toNat) : selectionOf b = none := by
  unfold selectionOf
  split
  · omega
  · omega
  · omega
  · rfl

/-- Any operand of PT SET out of its range makes them BAD_PARAM. -/
theorem timerSettingsOf_eq_none {e m sel : Byte} {p : BitVec 16}
    (h : 7 < e.toNat ∨ 1 < m.toNat ∨ 2 < sel.toNat ∨ p = 0) : timerSettingsOf e m sel p = none := by
  obtain h | h | h | rfl := h
  · simp [timerSettingsOf, exponentOf_of_large h]
  · simp [timerSettingsOf, modeOf_of_large h]
  · simp [timerSettingsOf, selectionOf_of_large h]
  · unfold timerSettingsOf
    split <;> simp

theorem timerSettingsOf_of_codes {e m sel : Byte} {p : BitVec 16} {mode : TimerMode} {selection : Selection}
    (he : e.toNat ≤ 7) (hm : m.toNat = mode.code) (hsel : sel.toNat = selection.code) (hp : p ≠ 0) :
    timerSettingsOf e m sel p =
      some { exponent := e.toNat, mode := mode, selection := selection, period := p.toNat } := by
  have period : p.toNat ≠ 0 := by simpa using BitVec.toNat_ne.1 hp
  simp [timerSettingsOf, exponentOf_of_le he, modeOf_of_code hm, selectionOf_of_code hsel, period]

/-! ### The timer's commands (R128, R130) -/

theorem setTimer_stopped {s : State} (x : TimerSettings) (h : s.bu.pt.running = false) :
    setTimer x s = ({ s with bu := { s.bu with pt := { s.bu.pt with
      exponent := x.exponent, mode := x.mode, selection := x.selection, period := x.period,
      pendingPeriod := none } } }, .done) := by
  simp [setTimer, h]

theorem setTimer_running_same {s : State} {x : TimerSettings} (h : s.bu.pt.running = true)
    (hx : x.exponent = s.bu.pt.exponent ∧ x.mode = s.bu.pt.mode ∧ x.selection = s.bu.pt.selection) :
    setTimer x s = ({ s with bu := { s.bu with pt := { s.bu.pt with pendingPeriod := some x.period } } }, .done) :=
  (if_pos h).trans (if_pos hx)

theorem setTimer_running_other {s : State} {x : TimerSettings} (h : s.bu.pt.running = true)
    (hx : ¬ (x.exponent = s.bu.pt.exponent ∧ x.mode = s.bu.pt.mode ∧ x.selection = s.bu.pt.selection)) :
    setTimer x s = (s, .fail .badState) :=
  (if_pos h).trans (if_neg hx)

theorem startTimer_stopped {s : State} (h : s.bu.pt.running = false) :
    startTimer s = ({ s with bu := { s.bu with pt := { s.bu.pt with
      running := true, count := 0, direction := .up, prescale := 0 } } }, .done) := by
  simp [startTimer, h]

theorem startTimer_running {s : State} (h : s.bu.pt.running = true) : startTimer s = (s, .fail .badState) := if_pos h

/-- A stopped timer already stands at the values PT STOP gives it, and holds no pending period. -/
theorem PeriodTimer.Lawful.stop_eq {pt : PeriodTimer} (h : pt.Lawful) (hr : pt.running = false) : pt.stop = pt := by
  obtain ⟨count, direction, prescale, pending⟩ := h.stopped hr
  cases pt
  simp_all [PeriodTimer.stop, PeriodTimer.takePending]

theorem countStep_stopped {s : State} (h : s.bu.pt.running = false) : s.countStep = s := by
  obtain ⟨-, same⟩ | ⟨running, -⟩ | ⟨running, -⟩ := countStep_cases s
  · exact same
  all_goals exact absurd running (by simp [h])

/-! ### The statements -/

theorem exec_ptStop {s : State} (hframe : s.ml.frame ≠ .discarding) :
    exec .ptStop s =
      .next (({ s with bu := { s.bu with pt := s.bu.pt.stop } } : State).answered .ptStop 0x00#8 []) :=
  exec_answered (act := stopTimer) rfl hframe rfl rfl

/-- Settles O23: an operand out of range reads as no settings; operands in range read as the settings they name, which
the timer takes by its state. -/
theorem ptSetTakesItsSettings : Obligations.PtSetTakesItsSettings := by
  intro s e m sel p hframe
  refine ⟨fun hbad => exec_answered rfl hframe (onParam_of_none (timerSettingsOf_eq_none hbad) _ s) rfl, ?_⟩
  intro mode selection he hm hsel hp
  have hread := onParam_of_some (timerSettingsOf_of_codes he hm hsel hp) setTimer s
  refine ⟨fun stopped => ?_, fun running => ⟨fun same => ?_, fun other => ?_⟩⟩
  · exact exec_answered rfl hframe (hread.trans (setTimer_stopped _ stopped)) rfl
  · exact exec_answered rfl hframe (hread.trans (setTimer_running_same running same)) rfl
  · exact exec_answered rfl hframe (hread.trans (setTimer_running_other running other)) rfl

/-- Settles O24: START by the timer's state; STOP is the same in either state, and leaves a lawful stopped timer as it
stands. -/
theorem ptStartAndStop : Obligations.PtStartAndStop := by
  intro s hframe
  refine ⟨fun stopped => ?_, fun running => ?_, exec_ptStop hframe, fun stopped => ?_, fun lawful stopped => ?_⟩
  · exact exec_answered rfl hframe (startTimer_stopped stopped) rfl
  · exact exec_answered rfl hframe (startTimer_running running) rfl
  · exact congrArg Host.Outcome.next (countStep_stopped stopped)
  · rw [exec_ptStop hframe, lawful.timer.stop_eq stopped]

end Sys2Proof.Machine
end

section
/-! SUPPORT. TRIP RELEASE (R148): what an accepted release does to the trip unit, and the two outcomes of the command. -/
namespace Sys2Proof.Machine

/-! ### The trip unit after an accepted release -/

theorem release_of_safe {tu : TripUnit} (h : ∃ k, (tu.entry k).view = .safe) :
    tu.release = { tu with
      state := .restoring
      views := tu.views.map fun v => if v.view = .safe then { v with restorePending := true } else v } :=
  if_pos (anySafe_iff.2 h)

theorem release_of_no_safe {tu : TripUnit} (h : ¬ ∃ k, (tu.entry k).view = .safe) :
    tu.release = { tu with state := .normal, reason := none } :=
  if_neg (mt anySafe_iff.1 h)

/-- When no entry is SAFE the table is left alone, which is what marking every SAFE entry does to it then. -/
@[simp] theorem entry_release (tu : TripUnit) (k : Slot) :
    tu.release.entry k =
      if (tu.entry k).view = .safe then { tu.entry k with restorePending := true } else tu.entry k := by
  by_cases h : ∃ j, (tu.entry j).view = .safe
  · rw [release_of_safe h]
    exact Vector.getElem_map _ k.isLt
  · have live : (tu.entry k).view ≠ .safe := fun hk => h ⟨k, hk⟩
    rw [if_neg live, release_of_no_safe h]
    rfl

theorem view_entry_release (tu : TripUnit) (k : Slot) : (tu.release.entry k).view = (tu.entry k).view := by
  rw [entry_release]
  split <;> rfl

theorem restorePending_entry_release (tu : TripUnit) (k : Slot) :
    (tu.release.entry k).restorePending = true ↔
      (tu.entry k).view = .safe ∨ (tu.entry k).restorePending = true := by
  rw [entry_release]
  split <;> simp [*]

@[simp] theorem lineTrip_release (tu : TripUnit) : tu.release.lineTrip = tu.lineTrip := by
  unfold TripUnit.release; split <;> rfl

@[simp] theorem filter_release (tu : TripUnit) : tu.release.filter = tu.filter := by
  unfold TripUnit.release; split <;> rfl

/-! ### The command -/

theorem releaseTrip_accepted {s : State} (tripped : s.tu.state = .tripped)
    (free : ¬ (s.tu.lineTrip = true ∧ s.tu.filter.level = .high)) :
    releaseTrip s = ({ s with tu := s.tu.release }, .done) :=
  if_pos ⟨tripped, free⟩

theorem releaseTrip_refused {s : State}
    (h : s.tu.state ≠ .tripped ∨ (s.tu.lineTrip = true ∧ s.tu.filter.level = .high)) :
    releaseTrip s = (s, .fail .badState) :=
  if_neg fun ⟨tripped, free⟩ => h.elim (absurd tripped) free

/-- Settles O34: the command's two outcomes, each carried through the link; the released unit has every SAFE entry
pending, and its state turns on whether there is one. -/
theorem tripReleaseStartsTheReturn : Obligations.TripReleaseStartsTheReturn := by
  intro s hframe
  refine ⟨fun refused => exec_answered rfl hframe (releaseTrip_refused refused) rfl, fun tripped free => ?_⟩
  refine ⟨s.tu.release, exec_answered rfl hframe (releaseTrip_accepted tripped free) rfl, view_entry_release s.tu,
    restorePending_entry_release s.tu, lineTrip_release s.tu, filter_release s.tu, fun safe => ?_, fun live => ?_⟩
  · rw [release_of_safe safe]
    exact ⟨rfl, rfl⟩
  · have no_safe : ¬ ∃ k, (s.tu.entry k).view = .safe := fun ⟨k, hk⟩ => by simp [live k] at hk
    rw [release_of_no_safe no_safe]
    exact ⟨rfl, rfl⟩

end Sys2Proof.Machine
end

section
/-! SUPPORT. The commands of the management link (R165 to R172): the owner of each, and what a frame that is judged
comes to. -/
namespace Sys2Proof.Machine

/-! ### Owners (R167) -/

/-- The block's part of a command of the link, before the link answers it (R167). SOFT RESET, whose response is always
IDLE, and the rows that are not sent in frames have none. -/
def ownerOf : Instr → Option (State → State × Reply)
  | .nop padding          => some (answerNop padding)
  | .queryDevice          => some fun s => (s, .report (deviceReport s))
  | .define ops           => some (onSlot ops.slot (defineAt ops))
  | .enable slot          => some (onSlot slot enableAt)
  | .disable slot         => some (onSlot slot disableAt)
  | .clear slot           => some (onSlot slot clearAt)
  | .hold slot            => some (onSlot slot holdAt)
  | .release slot         => some (onSlot slot releaseAt)
  | .abort slot           => some (onSlot slot abortAt)
  | .queryWindow slot     => some (onSlot slot queryWindowAt)
  | .ptSet e m sel p      => some (onParam (timerSettingsOf e m sel p) setTimer)
  | .ptStart              => some startTimer
  | .ptStop               => some stopTimer
  | .ptQuery              => some fun s => (s, .report (timerReport s.bu))
  | .forceBoundary source => some (onParam (sourceOf source) forceBoundary)
  | .lineSet e d          => some (onParam (filterSettingsOf e d) setLine)
  | .watchSet en e mn mx t => some (onParam (watchOf en e mn mx t) setWatch)
  | .watchQuery           => some fun s => (s, .report (watchReport s.bu))
  | .tripSet e d en       => some (onParam (tripSettingsOf e d en) setTrip)
  | .tripNow              => some fun s => (s.tripDemand .command, .done)
  | .tripRelease          => some releaseTrip
  | .readCauses           => some fun s => (s, .report [s.au.causes, s.au.enables])
  | .clearCauses causes   => some fun s => ({ s with au := { s.au with causes := s.au.causes &&& ~~~causes } }, .done)
  | .setMask causes       => some fun s => ({ s with au := { s.au with enables := causes } }, .done)
  | .readFault            => some readFault
  | .readRefusal          => some readRefusal
  | .memorySet setting    => some (onParam (timeoutOf setting) setTimeout)
  | .softReset | .fullReset _ | .frameNotTaken _ | .requestAccept _ _ | .hostTakeInService | .consumerTakeInService
  | .parkedWriteTranslateAfresh | .memoryGrant | .memoryAnswer _ _ | .accessTimeout | .resyncTakeInFlight
  | .ptCountStep | .lineSample _ | .watchStep | .tripSample _ | .windowTakeBoundary _ | .csnFall
  | .discardedFrame       => none

/-- A command with an owner is taken by the link and carried out by its owner. -/
theorem exec_of_owner {c : Instr} {act : State → State × Reply} (h : ownerOf c = some act) (s : State) :
    exec c s = .next (s.takeCommand c act) := by
  cases c <;> cases h <;> rfl

/-- The commands sent in frames are those with an owner, and SOFT RESET. -/
theorem commandBody_isSome_iff {c : Instr} :
    (commandBody c).isSome = true ↔ c = .softReset ∨ ∃ act, ownerOf c = some act := by
  cases c <;> simp [commandBody, ownerOf]

theorem encodeFrame_isSome {c : Instr} : (encodeFrame c).isSome = (commandBody c).isSome := by
  simp [encodeFrame]

/-! ### Owners by kind -/

/-- A command that names a slot is refused BAD_SLOT above 15, and else goes to its slot. -/
theorem onSlot_cases (slot : Byte) (act : Slot → State → State × Reply) (s : State) :
    (16 ≤ slot.toNat ∧ onSlot slot act s = (s, .fail .badSlot)) ∨
      ∃ k : Slot, slot.toNat = k.val ∧ onSlot slot act s = act k s := by
  by_cases h : slot.toNat < 16
  · exact .inr ⟨⟨slot.toNat, h⟩, rfl, onSlot_of_val rfl act s⟩
  · exact .inl ⟨by omega, onSlot_of_large (by omega) act s⟩

/-- A command with checked operands is refused BAD_PARAM, or carried out with what they read as. -/
theorem onParam_cases {α : Type} (operand : Option α) (act : α → State → State × Reply) (s : State) :
    (operand = none ∧ onParam operand act s = (s, .fail .badParam)) ∨
      ∃ x, operand = some x ∧ onParam operand act s = act x s := by
  cases operand with
  | none => exact .inl ⟨rfl, rfl⟩
  | some x => exact .inr ⟨x, rfl, rfl⟩

/-! ### Readers of operands (section 11.5.1) -/

/-- A reader takes exactly the operand bytes that a row of the command table asks for, and gives the well-formed command
whose frame they are. -/
structure Reads (row : CommandRow) (read : List Byte → Option Instr) : Prop where
  length : ∀ ops, (read ops).isSome = true ↔ row.fewest ≤ ops.length ∧ ops.length ≤ row.most
  body   : ∀ ops c, read ops = some c → commandBody c = some (row.code :: ops) ∧ c.wellFormed = true

theorem reads_readNone {code : Byte} {n : Nat} {c : Instr} (hb : commandBody c = some [code])
    (hw : c.wellFormed = true) : Reads ⟨code, 0, 0, n⟩ (readNone c) where
  length ops := by cases ops <;> simp [readNone]
  body ops c h := by
    unfold readNone at h
    split at h <;> cases h
    exact ⟨hb, hw⟩

theorem reads_readOne {code : Byte} {n : Nat} {c : Byte → Instr} (hb : ∀ b, commandBody (c b) = some [code, b])
    (hw : ∀ b, (c b).wellFormed = true) : Reads ⟨code, 1, 1, n⟩ (readOne c) where
  length ops := by
    rcases ops with _ | ⟨_, _ | ⟨_, _⟩⟩ <;> simp [readOne]
  body ops c h := by
    unfold readOne at h
    split at h <;> cases h
    exact ⟨hb _, hw _⟩

theorem reads_readTwo {code : Byte} {n : Nat} {c : Byte → Byte → Instr}
    (hb : ∀ a b, commandBody (c a b) = some [code, a, b]) (hw : ∀ a b, (c a b).wellFormed = true) :
    Reads ⟨code, 2, 2, n⟩ (readTwo c) where
  length ops := by
    rcases ops with _ | ⟨_, _ | ⟨_, _ | ⟨_, _⟩⟩⟩ <;> simp [readTwo]
  body ops c h := by
    unfold readTwo at h
    split at h <;> cases h
    exact ⟨hb _ _, hw _ _⟩

theorem reads_readThree {code : Byte} {n : Nat} {c : Byte → Byte → Byte → Instr}
    (hb : ∀ a b d, commandBody (c a b d) = some [code, a, b, d]) (hw : ∀ a b d, (c a b d).wellFormed = true) :
    Reads ⟨code, 3, 3, n⟩ (readThree c) where
  length ops := by
    rcases ops with _ | ⟨_, _ | ⟨_, _ | ⟨_, _ | ⟨_, _⟩⟩⟩⟩ <;> simp [readThree]
  body ops c h := by
    unfold readThree at h
    split at h <;> cases h
    exact ⟨hb _ _ _, hw _ _ _⟩

/-- Bytes put together are taken apart again as they were. -/
theorem bytes2_append (a b : Byte) : bytes2 (a ++ b) = [a, b] := by
  simp only [bytes2, List.cons.injEq, and_true]
  exact ⟨BitVec.extractLsb'_append_eq_left, BitVec.extractLsb'_append_eq_right⟩

theorem bytes3_append (a b c : Byte) : bytes3 (a ++ b ++ c) = [a, b, c] := by
  simp only [bytes3, List.cons.injEq, and_true]
  exact ⟨(BitVec.extractLsb'_append_eq_of_le (by decide)).trans BitVec.extractLsb'_append_eq_left,
    (BitVec.extractLsb'_append_eq_of_le (by decide)).trans BitVec.extractLsb'_append_eq_right,
    BitVec.extractLsb'_append_eq_right⟩

theorem bytes4_append (a b c d : Byte) : bytes4 (a ++ b ++ c ++ d) = [a, b, c, d] := by
  have high : ∀ start, BitVec.extractLsb' (8 + start) 8 (a ++ b ++ c ++ d) = BitVec.extractLsb' start 8 (a ++ b ++ c) :=
    fun start => by rw [BitVec.extractLsb'_append_eq_of_le (by omega), Nat.add_sub_cancel_left]
  have three := bytes3_append a b c
  simp only [bytes3, List.cons.injEq, and_true] at three
  simp only [bytes4, List.cons.injEq, and_true]
  exact ⟨(high 16).trans three.1, (high 8).trans three.2.1, (high 0).trans three.2.2,
    BitVec.extractLsb'_append_eq_right⟩

theorem reads_readPtSet : Reads ⟨0x20#8, 5, 5, 0⟩ readPtSet where
  length ops := by
    rcases ops with _ | ⟨_, _ | ⟨_, _ | ⟨_, _ | ⟨_, _ | ⟨_, _ | ⟨_, _⟩⟩⟩⟩⟩⟩ <;> simp [readPtSet]
  body ops c h := by
    unfold readPtSet at h
    split at h <;> cases h
    exact ⟨by simp [commandBody, bytes2_append], rfl⟩

theorem reads_readWatchSet : Reads ⟨0x29#8, 7, 7, 0⟩ readWatchSet where
  length ops := by
    rcases ops with
      _ | ⟨_, _ | ⟨_, _ | ⟨_, _ | ⟨_, _ | ⟨_, _ | ⟨_, _ | ⟨_, _ | ⟨_, _⟩⟩⟩⟩⟩⟩⟩⟩ <;> simp [readWatchSet]
  body ops c h := by
    unfold readWatchSet at h
    split at h <;> cases h
    exact ⟨by simp [commandBody, bytes2_append], rfl⟩

theorem reads_readNop : Reads ⟨0x00#8, 0, 32, 0⟩ readNop where
  length ops := by simp [readNop]
  body ops c h := by
    unfold readNop at h
    split at h <;> cases h
    exact ⟨rfl, by simpa [Instr.wellFormed, paddingFits]⟩

/-- The operands of DEFINE are read from 25 bytes and no other number, and spell the same bytes again. -/
theorem readDefine_isSome (ops : List Byte) : (readDefine ops).isSome = true ↔ ops.length = 25 := by
  constructor
  · intro h
    unfold readDefine at h
    split at h
    · rfl
    · cases h
  · intro h
    iterate 25
      rcases ops with _ | ⟨_, ops⟩
      · simp at h
    obtain rfl : ops = [] := by simpa using h
    rfl

theorem bytes_of_readDefine {ops : List Byte} {d : DefineOperands} (h : readDefine ops = some d) : d.bytes = ops := by
  unfold readDefine at h
  split at h <;> cases h
  simp [DefineOperands.bytes, bytes2_append, bytes3_append, bytes4_append]

theorem reads_readDefine : Reads ⟨0x10#8, 25, 25, 0⟩ fun ops => (readDefine ops).map .define where
  length ops := by simpa [le_antisymm_iff, and_comm] using readDefine_isSome ops
  body ops c h := by
    obtain ⟨d, hd, rfl⟩ := Option.map_eq_some_iff.1 h
    exact ⟨by simp [commandBody, bytes_of_readDefine hd], rfl⟩

theorem eq_ofNat_of_toNat {b : Byte} {n : Nat} (h : b.toNat = n) : b = BitVec.ofNat 8 n := by
  rw [← h, BitVec.ofNat_toNat, BitVec.setWidth_eq]

/-- The reader of a code is that of the code's row in the command table. -/
theorem reads_of_operandReader {code : Byte} {read : List Byte → Option Instr} (h : operandReader code = some read) :
    ∃ row, commandRow code = some row ∧ row.code = code ∧ Reads row read := by
  unfold operandReader at h
  split at h
  case h_29 => cases h
  all_goals
    rename_i hc
    cases h
    obtain rfl := eq_ofNat_of_toNat hc
    refine ⟨_, rfl, rfl, ?_⟩
  case h_1 => exact reads_readNop
  case h_3 => exact reads_readDefine
  case h_11 => exact reads_readPtSet
  case h_17 => exact reads_readWatchSet
  case h_16 => exact reads_readTwo (fun _ _ => rfl) fun _ _ => rfl
  case h_19 => exact reads_readThree (fun _ _ _ => rfl) fun _ _ _ => rfl
  case h_2 | h_12 | h_13 | h_14 | h_18 | h_20 | h_21 | h_22 | h_25 | h_26 | h_28 => exact reads_readNone rfl rfl
  all_goals exact reads_readOne (fun _ => rfl) fun _ => rfl

/-- A code that no reader knows has no row in the command table. -/
theorem commandRow_of_no_reader {code : Byte} (h : operandReader code = none) : commandRow code = none := by
  have known : ∀ row ∈ commandTable, (operandReader row.code).isSome = true := by decide
  refine Option.eq_none_iff_forall_ne_some.2 fun row hrow => ?_
  have hcode : row.code = code := by simpa using List.find?_some hrow
  simpa [hcode, h] using known row (List.mem_of_find?_eq_some hrow)

end Sys2Proof.Machine
end

section
/-! SUPPORT. Frames (R165, R166): bits gathered into bytes and back, the judgement of a frame in the terms of section
11.5.1, and what a frame that is judged comes to. -/
namespace Sys2Proof.Machine

/-! ### Bytes and bits -/

theorem byteBits_byteOfBits : ∀ b7 b6 b5 b4 b3 b2 b1 b0 : Bool,
    byteBits (byteOfBits b7 b6 b5 b4 b3 b2 b1 b0) = [b7, b6, b5, b4, b3, b2, b1, b0] := by decide

theorem byteBits_injective {b c : Byte} (h : byteBits b = byteBits c) : b = c := by
  simp only [byteBits, List.cons.injEq, and_true] at h
  obtain ⟨h7, h6, h5, h4, h3, h2, h1, h0⟩ := h
  refine BitVec.eq_of_getLsbD_eq fun i hi => ?_
  interval_cases i <;> assumption

theorem length_bytesBits (B : List Byte) : (bytesBits B).length = 8 * B.length := by
  induction B with
  | nil => rfl
  | cons b B ih => simp [bytesBits, byteBits, List.flatMap_cons] at ih ⊢; omega

theorem gatherBytes_of_short {L : List Bool} (h : L.length < 8) : gatherBytes L = ([], L) := by
  unfold gatherBytes
  split
  · simp at h; omega
  · rfl

/-- Whole bytes and the bits left over are gathered as they were sent (R165). -/
theorem gatherBytes_bytesBits (B : List Byte) {L : List Bool} (h : L.length < 8) :
    gatherBytes (bytesBits B ++ L) = (B, L) := by
  induction B with
  | nil => exact gatherBytes_of_short h
  | cons b B ih =>
    have hb : byteOfBits (b.getLsbD 7) (b.getLsbD 6) (b.getLsbD 5) (b.getLsbD 4) (b.getLsbD 3) (b.getLsbD 2)
        (b.getLsbD 1) (b.getLsbD 0) = b := byteBits_injective (byteBits_byteOfBits ..)
    have step : gatherBytes (bytesBits (b :: B) ++ L) =
        (byteOfBits _ _ _ _ _ _ _ _ :: (gatherBytes (bytesBits B ++ L)).1, (gatherBytes (bytesBits B ++ L)).2) := rfl
    rw [step, ih, hb]

/-- Every run of bits is whole bytes and fewer than eight bits left over. -/
theorem bytesBits_gatherBytes (bits : List Bool) :
    bits = bytesBits (gatherBytes bits).1 ++ (gatherBytes bits).2 ∧ (gatherBytes bits).2.length < 8 := by
  induction bits using gatherBytes.induct with
  | case1 b7 b6 b5 b4 b3 b2 b1 b0 rest ih =>
    refine ⟨?_, ih.2⟩
    simp only [gatherBytes, bytesBits, List.flatMap_cons, byteBits_byteOfBits, List.append_assoc]
    exact congrArg (_ :: _ :: _ :: _ :: _ :: _ :: _ :: _ :: ·) ih.1
  | case2 left h =>
    have hshort : left.length < 8 := by
      by_contra hl
      iterate 8
        rcases left with _ | ⟨_, left⟩
        · simp at hl
      exact h _ _ _ _ _ _ _ _ _ rfl
    rw [gatherBytes_of_short hshort]
    exact ⟨rfl, hshort⟩

/-! ### The judgement (R166) -/

/-- Judging a frame of whole bytes and left-over bits, in the order of R166. -/
theorem judgeFrame_bytes (B : List Byte) {L : List Bool} (h : L.length < 8) :
    judgeFrame (bytesBits B ++ L) =
      if L ≠ [] ∨ B.length < 2 then .error .badLength
      else if B.getLast? ≠ some (checkByte B.dropLast) then .error .badCheck
      else match B.dropLast with
        | [] => .error .badLength
        | code :: ops => match operandReader code with
          | none => .error .badCommand
          | some read => match read ops with
            | none => .error .badLength
            | some c => .ok c := by
  simp only [judgeFrame, gatherBytes_bytesBits B h] <;> rfl

theorem frameEcho_bytes (B : List Byte) {L : List Bool} (h : L.length < 8) :
    frameEcho (bytesBits B ++ L) = B.headD 0xFF#8 := by
  simp [frameEcho, gatherBytes_bytesBits B h]

/-- A frame that passes every check is its command's code and operands, closed by their check byte. -/
theorem judgeFrame_ok {bits : List Bool} {c : Instr} (h : judgeFrame bits = .ok c) : ∃ code ops read,
    bits = bytesBits (code :: ops ++ [checkByte (code :: ops)]) ∧ operandReader code = some read ∧ read ops = some c := by
  obtain ⟨hbits, hshort⟩ := bytesBits_gatherBytes bits
  generalize (gatherBytes bits).1 = B at hbits
  generalize (gatherBytes bits).2 = L at hbits hshort
  subst hbits
  rw [judgeFrame_bytes B hshort] at h
  split at h
  · cases h
  · rename_i hlen
    obtain ⟨rfl, -⟩ : L = [] ∧ 1 < B.length := by simpa using hlen
    split at h
    · cases h
    · rename_i hcheck
      split at h
      · cases h
      · rename_i code ops hbody
        split at h
        · cases h
        · rename_i read hread
          split at h
          · cases h
          · rename_i c' hc
            cases h
            refine ⟨code, ops, read, ?_, hread, hc⟩
            have hlast : B.getLast? = some (checkByte (code :: ops)) := by simpa [hbody] using hcheck
            rw [← List.dropLast_append_getLast? _ hlast, hbody, List.append_nil]

/-- The command that a passing frame is taken as spells that frame (section 11.5.1). -/
theorem commandBody_of_judgeFrame {bits : List Bool} {c : Instr} (h : judgeFrame bits = .ok c) :
    ∃ body, commandBody c = some body ∧ bits = bytesBits (body ++ [checkByte body]) ∧ c.wellFormed = true := by
  obtain ⟨code, ops, read, hbits, hread, hc⟩ := judgeFrame_ok h
  obtain ⟨row, -, rfl, reads⟩ := reads_of_operandReader hread
  obtain ⟨hbody, hw⟩ := reads.body ops c hc
  exact ⟨_, hbody, hbits, hw⟩

/-! ### A frame taken or not (R166, R167, R171) -/

theorem takeFrame_eq_exec {c : Instr} (h : (commandBody c).isSome = true) (s : State) : takeFrame c s = exec c s := by
  rcases commandBody_isSome_iff.1 h with rfl | ⟨act, hact⟩
  · rfl
  · cases c <;> cases hact <;> rfl

theorem exec_frameNotTaken_error {bits : List Bool} {st : Status} {s : State} (hf : s.ml.frame ≠ .discarding)
    (h : judgeFrame bits = .error st) :
    exec (.frameNotTaken bits) s = .next { s with ml := s.ml.endFrame bits (failedResponse bits st) } := by
  show execFrameNotTaken bits s = _
  simp [execFrameNotTaken, hf, h]

theorem exec_frameNotTaken_ok {bits : List Bool} {c : Instr} {s : State} (hf : s.ml.frame ≠ .discarding)
    (h : judgeFrame bits = .ok c) : exec (.frameNotTaken bits) s = exec c s := by
  obtain ⟨body, hbody, -⟩ := commandBody_of_judgeFrame h
  refine Eq.trans ?_ (takeFrame_eq_exec (by simp [hbody]) s)
  show execFrameNotTaken bits s = _
  simp [execFrameNotTaken, hf, h]

theorem exec_frameNotTaken_discarding {bits : List Bool} {s : State} (hf : s.ml.frame = .discarding) :
    exec (.frameNotTaken bits) s = .next { s with ml := s.ml.discardFrame } := by
  show execFrameNotTaken bits s = _
  simp [execFrameNotTaken, hf]

/-- A frame changes the link alone, or is taken as the command of the link that it carries. -/
theorem exec_frameNotTaken_cases (bits : List Bool) (s : State) :
    (∃ ml, exec (.frameNotTaken bits) s = .next { s with ml := ml }) ∨
      ∃ c, judgeFrame bits = .ok c ∧ (commandBody c).isSome = true ∧ exec (.frameNotTaken bits) s = exec c s := by
  by_cases hf : s.ml.frame = .discarding
  · exact .inl ⟨_, exec_frameNotTaken_discarding hf⟩
  · cases h : judgeFrame bits with
    | error st => exact .inl ⟨_, exec_frameNotTaken_error hf h⟩
    | ok c =>
      obtain ⟨body, hbody, -⟩ := commandBody_of_judgeFrame h
      exact .inr ⟨c, rfl, by simp [hbody], exec_frameNotTaken_ok hf h⟩

end Sys2Proof.Machine
end

section
/-! SUPPORT. The laws of the period timer, the line filters and the watch (R124, R132, R135, R143), kept by each operation
on one of them. -/
namespace Sys2Proof.Machine

/-! ### Filters (R132, R133) -/

theorem Filter.Lawful.depth_pos {f : Filter} (h : f.Lawful) : 1 ≤ f.depth := by
  rcases h.depth_in with hd | hd | hd | hd <;> omega

theorem Filter.Lawful.cleared {f : Filter} (h : f.Lawful) (l : Level) :
    ({ f with level := l, run := 0, prescale := 0 } : Filter).Lawful :=
  ⟨Nat.two_pow_pos _, h.exponent_le, h.depth_in, h.depth_pos⟩

theorem Filter.Lawful.sample {f : Filter} (h : f.Lawful) (l : Level) : (f.sample l).Lawful := by
  rcases sample_cases f l with ⟨-, e⟩ | ⟨-, hrun, e⟩ | ⟨-, -, e⟩ <;> rw [e]
  · exact h.cleared f.level
  · exact ⟨Nat.two_pow_pos _, h.exponent_le, h.depth_in, hrun⟩
  · exact h.cleared l

/-- A prescale count that does not expire may rise. -/
theorem Filter.Lawful.counted {f : Filter} (h : f.Lawful) (hp : ¬ 2 ^ f.exponent ≤ f.prescale + 1) :
    ({ f with prescale := f.prescale + 1 } : Filter).Lawful :=
  ⟨Nat.lt_of_not_le hp, h.exponent_le, h.depth_in, h.run_lt⟩

theorem Filter.set_lawful {x : Nat × Nat} (f : Filter) (hx : x.1 ≤ 7 ∧ (x.2 = 1 ∨ x.2 = 4 ∨ x.2 = 8 ∨ x.2 = 16)) :
    (f.set x.1 x.2).Lawful :=
  ⟨Nat.two_pow_pos _, hx.1, hx.2, by rcases hx.2 with hd | hd | hd | hd <;> simp [Filter.set, hd]⟩

theorem exponentOf_le {b : Byte} {e : Nat} (h : exponentOf b = some e) : e ≤ 7 := by
  unfold exponentOf at h
  split at h <;> cases h
  assumption

/-- Settings that LINE SET or TRIP SET accepts are in range (R133, R145). -/
theorem filterSettingsOf_in {e d : Byte} {x : Nat × Nat} (h : filterSettingsOf e d = some x) :
    x.1 ≤ 7 ∧ (x.2 = 1 ∨ x.2 = 4 ∨ x.2 = 8 ∨ x.2 = 16) := by
  unfold filterSettingsOf at h
  split at h
  · rename_i he hd
    cases h
    refine ⟨exponentOf_le he, ?_⟩
    unfold depthOf at hd
    split at hd <;> cases hd
    assumption
  · cases h

theorem tripSettingsOf_in {e d en : Byte} {x : (Nat × Nat) × Bool} (h : tripSettingsOf e d en = some x) :
    x.1.1 ≤ 7 ∧ (x.1.2 = 1 ∨ x.1.2 = 4 ∨ x.1.2 = 8 ∨ x.1.2 = 16) := by
  unfold tripSettingsOf at h
  split at h <;> cases h
  exact filterSettingsOf_in ‹_›

/-! ### The watch (R135 to R139) -/

theorem Watch.Lawful.max_pos {w : Watch} (h : w.Lawful) : 0 < w.max := h.min_pos.trans h.min_lt_max.le

theorem Watch.Lawful.restart {w : Watch} (h : w.Lawful) : w.restart.Lawful where
  min_pos := h.min_pos
  min_lt_max := h.min_lt_max
  max_le := h.max_le
  count_lt := h.max_pos
  exponent_le := h.exponent_le
  prescale_lt := Nat.two_pow_pos _
  history_len := Nat.zero_le _
  history_in := by simp [Watch.restart]
  resting _ := ⟨rfl, rfl⟩
  first_empty _ := rfl

/-- The count of a counting watch may move below MAX, and its prescale count below its limit (R136). -/
theorem Watch.Lawful.recount {w : Watch} {count prescale : Nat} (h : w.Lawful) (hc : w.counting = true)
    (hcount : count < w.max) (hp : prescale < 2 ^ w.exponent) :
    ({ w with count := count, prescale := prescale } : Watch).Lawful :=
  { h with
    count_lt := hcount
    prescale_lt := hp
    resting := fun hr => absurd (hc.symm.trans hr) (by decide) }

theorem mem_lastIntervals {h : List Nat} {i : Nat} (hi : i ∈ lastIntervals h) : i ∈ h := List.mem_of_mem_drop hi

theorem length_lastIntervals_le (h : List Nat) : (lastIntervals h).length ≤ 8 := by
  simp [lastIntervals, Config.historyLength]
  omega

/-- An edge leaves the watch, starts it, is early, or records its interval (R137). -/
theorem edge_cases (w : Watch) :
    (w.enable = false ∧ w.accepts = true ∧ w.edge = w) ∨
    (w.enable = true ∧ w.first = true ∧ w.accepts = true ∧
      w.edge = { w with count := 0, prescale := 0, first := false }) ∨
    (w.enable = true ∧ w.first = false ∧ w.count < w.min ∧ w.accepts = false ∧ w.edge = w) ∨
    (w.enable = true ∧ w.first = false ∧ w.min ≤ w.count ∧ w.accepts = true ∧
      w.edge = { w with count := 0, prescale := 0, history := lastIntervals (w.history ++ [w.count]) }) := by
  cases he : w.enable with
  | false => exact .inl ⟨rfl, by simp [Watch.accepts, he], by simp [Watch.edge, he]⟩
  | true =>
    refine .inr ?_
    cases hf : w.first with
    | true => exact .inl ⟨rfl, rfl, by simp [Watch.accepts, hf], by simp [Watch.edge, he, hf]⟩
    | false =>
      refine .inr ?_
      by_cases h : w.count < w.min
      · exact .inl ⟨rfl, rfl, h, by simp [Watch.accepts, he, hf, h], by simp [Watch.edge, he, hf, h]⟩
      · exact .inr ⟨rfl, rfl, by omega, by simp [Watch.accepts]; omega, by simp [Watch.edge, he, hf, h]⟩

theorem Watch.Lawful.edge {w : Watch} (h : w.Lawful) : w.edge.Lawful := by
  rcases edge_cases w with ⟨-, -, e⟩ | ⟨he, hf, -, e⟩ | ⟨-, -, -, -, e⟩ | ⟨he, hf, hm, -, e⟩ <;> rw [e]
  · exact h
  · exact { h with
      count_lt := h.max_pos
      prescale_lt := Nat.two_pow_pos _
      resting := fun _ => ⟨rfl, rfl⟩
      first_empty := fun no => nomatch no }
  · exact h
  · exact { h with
      count_lt := h.max_pos
      prescale_lt := Nat.two_pow_pos _
      history_len := length_lastIntervals_le _
      history_in := fun i hi => (List.mem_append.1 (mem_lastIntervals hi)).elim (h.history_in i) fun hi => by
        rw [List.mem_singleton.1 hi]
        exact ⟨hm, h.count_lt⟩
      resting := fun _ => ⟨rfl, rfl⟩
      first_empty := fun no => absurd (hf.symm.trans no) (by decide) }

/-- What WATCH SET accepts is lawful (R139). -/
theorem watchOf_lawful {en e trip : Byte} {mn mx : BitVec 16} {w : Watch} (h : watchOf en e mn mx trip = some w) :
    w.Lawful := by
  unfold watchOf at h
  split at h
  · rename_i he
    split at h
    · cases h
    · rename_i hm
      cases h
      have hmx := mx.isLt
      simp only [not_or, not_le] at hm
      exact ⟨Nat.one_le_iff_ne_zero.2 hm.1, hm.2, Nat.le_of_lt_succ hmx, Nat.zero_lt_of_lt hm.2, exponentOf_le he,
        Nat.two_pow_pos _, Nat.zero_le _, by simp, fun _ => ⟨rfl, rfl⟩, fun _ => rfl⟩
  · cases h

/-! ### The period timer (R124 to R130) -/

/-- The period in force once a pending one has been moved into P (R129). -/
theorem PeriodTimer.Lawful.pending_getD {pt : PeriodTimer} (h : pt.Lawful) :
    1 ≤ pt.pendingPeriod.getD pt.period ∧ pt.pendingPeriod.getD pt.period ≤ 65535 := by
  cases hp : pt.pendingPeriod with
  | none => exact ⟨h.period_pos, h.period_le⟩
  | some p => exact h.pending_in p hp

/-- A timer at count 0, direction UP and prescale 0 with a period in range, running or without a pending period. -/
theorem PeriodTimer.lawful_of_zero {pt : PeriodTimer} (hc : pt.count = 0) (hd : pt.direction = .up)
    (hpre : pt.prescale = 0) (he : pt.exponent ≤ 7) (hp : 1 ≤ pt.period ∧ pt.period ≤ 65535)
    (hpend : pt.pendingPeriod = none) : pt.Lawful where
  period_pos := hp.1
  period_le := hp.2
  count_le := by omega
  prescale_lt := by rw [hpre]; exact Nat.two_pow_pos _
  exponent_le := he
  pending_in := by simp [hpend]
  stopped _ := ⟨hc, hd, hpre, hpend⟩
  saw_up _ := hd
  tri_up_lt _ _ := by omega
  down_pos h := by rw [hd] at h; cases h

theorem PeriodTimer.Lawful.stop {pt : PeriodTimer} (h : pt.Lawful) : pt.stop.Lawful :=
  PeriodTimer.lawful_of_zero rfl rfl rfl h.exponent_le h.pending_getD rfl

/-- A count step of a running timer keeps its laws (R126, R127). -/
theorem PeriodTimer.Lawful.step {pt : PeriodTimer} (h : pt.Lawful) (hr : pt.running = true) : pt.step.1.Lawful := by
  have running : ∀ {P : Prop}, pt.running = false → P := fun no => absurd (hr.symm.trans no) (by decide)
  rcases timerStep_cases pt with ⟨hm, hc, e⟩ | ⟨hm, hc, e⟩ | ⟨hm, hd, hc, e⟩ | ⟨hm, hd, hc, e⟩ | ⟨hm, hd, hc, e⟩ |
    ⟨hm, hd, hc, e⟩ <;> rw [e]
  · exact { h with
      count_le := hc
      prescale_lt := Nat.two_pow_pos _
      stopped := running
      tri_up_lt := fun no => absurd (hm.symm.trans no) (by decide)
      down_pos := fun _ => Nat.succ_pos _ }
  · exact PeriodTimer.lawful_of_zero rfl (h.saw_up hm) rfl h.exponent_le h.pending_getD rfl
  · exact { h with
      count_le := hc.le
      prescale_lt := Nat.two_pow_pos _
      stopped := running
      tri_up_lt := fun _ _ => hc
      down_pos := fun _ => Nat.succ_pos _ }
  · exact { h with
      count_le := h.tri_up_lt hm hd
      prescale_lt := Nat.two_pow_pos _
      stopped := running
      saw_up := fun no => absurd (hm.symm.trans no) (by decide)
      tri_up_lt := fun _ no => nomatch no
      down_pos := fun _ => Nat.succ_pos _ }
  · exact { h with
      count_le := (Nat.sub_le ..).trans h.count_le
      prescale_lt := Nat.two_pow_pos _
      stopped := running
      tri_up_lt := fun _ no => absurd (hd.symm.trans no) (by decide)
      down_pos := fun _ => Nat.le_sub_one_of_lt hc }
  · exact PeriodTimer.lawful_of_zero rfl rfl rfl h.exponent_le h.pending_getD rfl

theorem PeriodTimer.Lawful.counted {pt : PeriodTimer} (h : pt.Lawful) (hr : pt.running = true)
    (hp : ¬ 2 ^ pt.exponent ≤ pt.prescale + 1) : ({ pt with prescale := pt.prescale + 1 } : PeriodTimer).Lawful :=
  { h with
    prescale_lt := Nat.lt_of_not_le hp
    stopped := fun no => absurd (hr.symm.trans no) (by decide) }

/-- Settings that PT SET accepts are in range (R128). -/
theorem timerSettingsOf_in {e m sel : Byte} {p : BitVec 16} {x : TimerSettings}
    (h : timerSettingsOf e m sel p = some x) : x.exponent ≤ 7 ∧ 1 ≤ x.period ∧ x.period ≤ 65535 := by
  unfold timerSettingsOf at h
  split at h
  · rename_i he _ _
    split at h
    · cases h
    · rename_i hp
      cases h
      have := p.isLt
      exact ⟨exponentOf_le he, Nat.one_le_iff_ne_zero.2 hp, by show p.toNat ≤ 65535; omega⟩
  · cases h

theorem PeriodTimer.Lawful.setTimer {s : State} {x : TimerSettings} (h : s.bu.pt.Lawful)
    (hx : x.exponent ≤ 7 ∧ 1 ≤ x.period ∧ x.period ≤ 65535) : (setTimer x s).1.bu.pt.Lawful := by
  cases hr : s.bu.pt.running with
  | true =>
    by_cases hs : x.exponent = s.bu.pt.exponent ∧ x.mode = s.bu.pt.mode ∧ x.selection = s.bu.pt.selection
    · rw [setTimer_running_same hr hs]
      exact { h with
        pending_in := by simpa using hx.2
        stopped := fun no => absurd (hr.symm.trans no) (by decide) }
    · rw [setTimer_running_other hr hs]
      exact h
  | false =>
    obtain ⟨hc, hd, hp, -⟩ := h.stopped hr
    rw [setTimer_stopped x hr]
    exact PeriodTimer.lawful_of_zero hc hd hp hx.1 hx.2 rfl

theorem PeriodTimer.Lawful.startTimer {s : State} (h : s.bu.pt.Lawful) : (startTimer s).1.bu.pt.Lawful := by
  cases hr : s.bu.pt.running with
  | true => rw [startTimer_running hr]; exact h
  | false =>
    rw [startTimer_stopped hr]
    exact PeriodTimer.lawful_of_zero rfl rfl rfl h.exponent_le ⟨h.period_pos, h.period_le⟩ (h.stopped hr).2.2.2

end Sys2Proof.Machine
end

section
/-! SUPPORT. What a step can do, said once: every command and every idle clock is a path of the events below, each with
the condition under which it is taken. A law that every event keeps is kept by every step. -/
namespace Sys2Proof.Machine

/-! ### Events -/

/-- A port may serve its head request: it is IDLE, or PARKED with nothing awaited (R66, R81). -/
def State.Ready (s : State) (p : PortId) : Prop :=
  (s.port p).service = .idle ∨ (s.port p).service = .parked ∧ s.re.awaited = none

/-- The client of a port. -/
def portClient : PortId → Client
  | .host     => .hp
  | .consumer => .cp

/-- A client has nothing that an answer could go to. -/
def State.Deaf (s : State) : Client → Prop
  | .hp => s.hp.isAwaiting = false ∨ s.hp.queue = []
  | .cp => s.cp.isAwaiting = false ∨ s.cp.queue = []
  | .re => s.re.orphaned = false ∧ (s.re.copy = none ∨ s.re.queue = [])
  | .sw => s.sw.discarded = false ∧ s.sw.queue = []

/-- One event at the blocks of the bridge. -/
inductive Event (s : State) : State → Prop
  /-- The link, the lines and the model's own records are no part of any law. -/
  | outside (ml : ManagementLink) (pins : Pins) (out : Outputs) (choices : Nat) (pending : List Instr) :
    Event s { s with ml := ml, pins := pins, out := out, choices := choices, pending := pending }
  | attention (au : AttentionUnit) (faults : FaultsLawful s → au.faults.length ≤ 4) : Event s { s with au := au }
  | sources (bu : BoundaryUnit) (timer : s.bu.pt.Lawful → bu.pt.Lawful) (line : s.bu.line.Lawful → bu.line.Lawful)
      (watch : s.bu.watch.Lawful → bu.watch.Lawful) : Event s { s with bu := bu }
  | tripLine (f : Filter) (lineTrip : Bool) (filter : s.tu.filter.Lawful → f.Lawful) :
    Event s { s with tu := { s.tu with filter := f, lineTrip := lineTrip } }
  | timeout (x : Option Nat) (range : ∀ k ∈ x, 4 ≤ k ∧ k ≤ 15) : Event s { s with mp := { s.mp with timeout := x } }
  | clocked (a : AwaitingAccess) (out : s.mp.awaiting = some a) (early : ∀ l ∈ a.limit, a.clocks + 1 < l) :
    Event s { s with mp := { s.mp with awaiting := some { a with clocks := a.clocks + 1 } } }
  | deliver (src : Source) : Event s (s.deliver src)
  /-- DEFINE (R8). -/
  | define (k : Slot) (d : Descriptor) (free : (s.window k).life.inService = false) (valid : d.valid)
      (apart : s.overlaps k d = false) :
    Event s (s.setWindow k { (s.window k).restarted with desc := some d, life := .defined, gen := 0, live := .a })
  /-- CLEAR (R15). -/
  | clear (k : Slot) (life : (s.window k).life = .defined) :
    Event s (s.setWindow k { s.window k with life := .unused, desc := none })
  /-- HOLD and RELEASE (R11, R12). -/
  | swap (k : Slot) (l : Lifecycle) (old : (s.window k).life = .active ∨ (s.window k).life = .held)
      (new : l = .active ∨ l = .held) : Event s (s.setWindow k { s.window k with life := l })
  /-- A record whose lifecycle, descriptor and dirty set stay: its counts, its phase and its waiting boundaries move. -/
  | mark (k : Slot) (w : Window) (life : w.life = (s.window k).life) (desc : w.desc = (s.window k).desc)
      (dirty : w.dirty = (s.window k).dirty) (lawful : (s.window k).Lawful → w.Lawful) : Event s (s.setWindow k w)
  /-- A staged write (R23). -/
  | stage (k : Slot) (seg : Segment) (life : (s.window k).life = .active) (free : { slot := k, seg := seg } ∉ s.re.queue) :
    Event s (s.setWindow k ((s.window k).stage seg))
  /-- ENABLE (R10). -/
  | enable (k : Slot) (d : Descriptor) (life : (s.window k).life = .defined) (desc : (s.window k).desc = some d) :
    Event s { s.setWindow k { (s.window k).restarted with life := .active } with
      re := s.re.append k allSegments
      sw := match d.stampAddr with
        | some a => s.sw.append (enableRecord s k (s.window k) d a)
        | none   => s.sw
      tu := s.tu.setEntry k (s.tu.enableEntry d.tripProtected) }
  /-- DISABLE (R13). -/
  | disable (k : Slot) (life : (s.window k).life.inService = true) :
    Event s { s.setWindow k { (s.window k).restarted with life := .defined, inbox := [] } with
      re := s.re.purge k, sw := s.sw.remove k, tu := s.tu.toLive k }
  /-- ABORT (R32). -/
  | abort (k : Slot) (life : (s.window k).life = .active ∨ (s.window k).life = .held) :
    Event s { s.setWindow k (s.window k).cleaned with re := s.re.append k (s.window k).dirty }
  /-- A flip (R40 to R43). -/
  | flip (k : Slot) (d : Descriptor) (seq : BitVec 32) (desc : (s.window k).desc = some d)
      (phase : (s.window k).phase = .complete) (may : s.mayFlip k = true) : Event s (s.flip k d seq)
  | trip (r : TripReason) : Event s { s with tu := s.tu.trip r fun k => (s.window k).guarded }
  | release (state : s.tu.state = .tripped) : Event s { s with tu := s.tu.release }
  | restore (k : Slot) (pending : (s.tu.entry k).restorePending = true) : Event s { s with tu := s.tu.toLive k }
  | offer (p : PortId) (r : Request) : Event s (s.setPort p ((s.port p).offered r))
  /-- A port answers its head request without an access (R78, R89, R91). -/
  | answer (p : PortId) (r : PortResponse) (ready : s.Ready p) : Event s (s.answerHead p r)
  | request (p : PortId) (t : Translated) (ready : s.Ready p) (head : (s.port p).queue ≠ []) : Event s (s.request p t)
  /-- The host port parks a write on an entry (R64). -/
  | park (e : Entry) (ready : s.Ready .host) (queued : e ∈ s.re.queue) (head : ∃ r ∈ s.hp.queue.head?, opIsWrite r.op = true) :
    Event s { s.setPort .host { s.hp with service := .parked } with re := s.re.await e }
  | grant (a : Access) (n : Nat) (free : s.mp.awaiting = none) (choice : s.grantChoice = some (a, n)) :
    Event s (s.issue a n)
  /-- The awaiting access ends, and nothing waits for its answer: the laws exclude it. -/
  | stray (c : Client) (out : s.clientOut = some c) (deaf : s.Deaf c) : Event s s.freed
  /-- The answer to a port's access (R82). -/
  | served (p : PortId) (r : PortResponse) (out : s.clientOut = some (portClient p))
      (awaits : (s.port p).isAwaiting = true) : Event s (s.freed.answerHead p r)
  /-- The answer to an orphaned access (R69). -/
  | orphan (out : s.clientOut = some .re) (orphaned : s.re.orphaned = true) :
    Event s { s.freed with re := { s.re with orphaned := false } }
  /-- An OK to the copy's access (R61, R62). -/
  | advance (c : Copy) (e : Entry) (rest : List Entry) (word : Word) (out : s.clientOut = some .re)
      (own : s.re.orphaned = false) (copy : s.re.copy = some c) (queue : s.re.queue = e :: rest) :
    Event s { s.freed with re := s.re.advance c (s.segLenOf e.slot) word }
  /-- A failure of the copy's access (R71). -/
  | copyFails (c : Copy) (e : Entry) (rest : List Entry) (out : s.clientOut = some .re)
      (own : s.re.orphaned = false) (copy : s.re.copy = some c) (queue : s.re.queue = e :: rest) :
    Event s { s.freed.setWindow e.slot (s.window e.slot).fail with re := { s.re with copy := none }.purge e.slot }
  /-- The answer to the stamp writer's access (R115 to R119). -/
  | stamped (ans : ClientAnswer) (out : s.clientOut = some .sw) (waits : s.sw.discarded = true ∨ s.sw.queue ≠ []) :
    Event s { s.freed with sw := s.sw.answer ans }
  | takeInFlight (e : Entry) (rest : List Entry) (idle : s.re.copy = none) (queue : s.re.queue = e :: rest) :
    Event s { s with re := { s.re with copy := some { index := 0, step := .read, stage := .requested } } }
  | softReset : Event s s.softReset
  | fullReset (csnLow : Bool) : Event s (s.fullReset csnLow)

/-- A path of events. -/
abbrev Reaches : State → State → Prop := Relation.ReflTransGen fun s t => Event s t

theorem Event.reaches {s t : State} (h : Event s t) : Reaches s t := .single h

/-- A law that every event keeps is kept along every path of events. -/
theorem Reaches.keeps {P : State → Prop} (kept : ∀ s t, Event s t → P s → P t) {s t : State} (h : Reaches s t)
    (hs : P s) : P t := by
  induction h with
  | refl => exact hs
  | tail _ last ih => exact kept _ _ last ih

/-! ### Single effects as paths -/

theorem reaches_link (s : State) (ml : ManagementLink) : Reaches s { s with ml := ml } :=
  (Event.outside ml s.pins s.out s.choices s.pending).reaches

theorem reaches_raise (s : State) (c : Cause) : Reaches s (s.raise c) :=
  (Event.attention (s.au.raise c) id).reaches

theorem length_faults_withFault {au : AttentionUnit} (r : FaultRecord) (h : au.faults.length ≤ 4) :
    (au.withFault r).faults.length ≤ 4 := by
  unfold AttentionUnit.withFault
  split
  · simpa
  · exact h

theorem reaches_fault (s : State) (r : FaultRecord) : Reaches s { s with au := s.au.withFault r } :=
  (Event.attention _ (length_faults_withFault r)).reaches

theorem reaches_timer {s : State} (pt : PeriodTimer) (h : s.bu.pt.Lawful → pt.Lawful) :
    Reaches s { s with bu := { s.bu with pt := pt } } :=
  (Event.sources { s.bu with pt := pt } h id id).reaches

theorem reaches_line {s : State} (f : Filter) (h : s.bu.line.Lawful → f.Lawful) :
    Reaches s { s with bu := { s.bu with line := f } } :=
  (Event.sources { s.bu with line := f } id h id).reaches

theorem reaches_watch {s : State} (w : Watch) (h : s.bu.watch.Lawful → w.Lawful) :
    Reaches s { s with bu := { s.bu with watch := w } } :=
  (Event.sources { s.bu with watch := w } id id h).reaches

theorem reaches_tripDemand (s : State) (r : TripReason) : Reaches s (s.tripDemand r) := by
  rcases tripDemand_cases s r with ⟨-, h⟩ | ⟨-, h⟩
  · rw [h]
  · exact h ▸ .trans (Event.trip r).reaches (reaches_raise _ .trip)

/-! ### Owners of the link's commands -/

/-- A base that passes DEFINE's range and alignment checks fits. -/
theorem baseFits_of_addrOf {size : Nat} {v : BitVec 24} (h : (addrOf v).any (alignedTo size) = true) :
    baseFits size v := by
  unfold addrOf at h
  split at h
  · rename_i hv
    have al : (v.setWidth 22).toNat % size = 0 := of_decide_eq_true h
    exact ⟨toNat_setWidth_of_le hv ▸ al, hv⟩
  · cases h

/-- Operands that read as a descriptor pass every BAD_PARAM check (R6). -/
theorem fits_of_descriptorOf {o : DefineOperands} {d : Descriptor} (h : descriptorOf o = some d) : o.Fits := by
  simp only [descriptorOf] at h
  split at h
  · rename_i hlogical hbankA hbankB
    split at h
    · rename_i fits
      obtain ⟨k_ge, k_le, six, seven, cadence, closing, logical, bankA, bankB, safe, stamp, banks⟩ := fits
      refine ⟨⟨k_ge, k_le⟩, ⟨six, seven⟩, cadence, closing, baseFits_of_addrOf (by rwa [hlogical]),
        baseFits_of_addrOf (by rwa [hbankA]), baseFits_of_addrOf (by rwa [hbankB]),
        fun p => baseFits_of_addrOf (safe p), fun p => baseFits_of_addrOf (stamp p), fun e => banks ?_⟩
      rw [e, hbankA] at hbankB
      exact (Option.some.inj hbankB).symm
    · cases h
  · cases h

/-- The descriptor of operands that fit is one that DEFINE can load, when its own regions are disjoint. -/
theorem valid_of_fits {o : DefineOperands} (h : o.Fits) (disjoint : pairwiseDisjoint o.descriptor.claimed = true) :
    o.descriptor.valid := by
  obtain ⟨exponent, -, cadence, closing, logical, bankA, bankB, safe, stamp, banks⟩ := h
  have aligned : ∀ {size v}, baseFits size v → (v.setWidth 22).toNat % size = 0 := fun h =>
    (toNat_setWidth_of_le h.2).symm ▸ h.1
  have cadence_lt := o.cadence.isLt
  refine ⟨exponent.1, exponent.2, Nat.one_le_iff_ne_zero.2 cadence, Nat.le_of_lt_succ cadence_lt, closing,
    aligned logical, aligned bankA, aligned bankB, fun a ha => ?_, fun a ha => ?_, fun e => banks ?_, disjoint⟩
  · obtain ⟨p, rfl⟩ : o.safePresent = true ∧ o.safe.setWidth 22 = a := by simpa [DefineOperands.descriptor] using ha
    exact aligned (safe p)
  · obtain ⟨p, rfl⟩ : o.stampPresent = true ∧ o.stamp.setWidth 22 = a := by simpa [DefineOperands.descriptor] using ha
    exact aligned (stamp p)
  · refine BitVec.eq_of_toNat_eq ?_
    rw [← toNat_setWidth_of_le bankB.2, ← toNat_setWidth_of_le bankA.2]
    exact congrArg BitVec.toNat e

theorem valid_of_descriptorOf {s : State} {o : DefineOperands} {k : Slot} {d : Descriptor}
    (h : descriptorOf o = some d) (apart : s.overlaps k d = false) : d.valid := by
  have fits := fits_of_descriptorOf h
  obtain rfl : o.descriptor = d := Option.some.inj ((descriptorOf_of_fits fits).symm.trans h)
  refine valid_of_fits fits ?_
  simp only [State.overlaps, Bool.or_eq_false_iff, Bool.not_eq_false'] at apart
  exact apart.1

theorem defineAt_reaches (o : DefineOperands) (k : Slot) (s : State) : Reaches s (defineAt o k s).1 := by
  unfold defineAt
  simp only
  split
  · exact .refl
  · rename_i free
    split
    · exact .refl
    · rename_i d hd
      split
      · exact .refl
      · rename_i apart
        have apart := Bool.eq_false_iff.2 apart
        exact (Event.define k d (Bool.eq_false_iff.2 free) (valid_of_descriptorOf hd apart) apart).reaches

theorem enableAt_reaches (k : Slot) (s : State) : Reaches s (enableAt k s).1 := by
  unfold enableAt
  simp only
  split
  · exact (Event.enable k _ ‹_› ‹_›).reaches
  · exact .refl

theorem disableAt_reaches (k : Slot) (s : State) : Reaches s (disableAt k s).1 := by
  unfold disableAt
  simp only
  split
  · exact (Event.disable k ‹_›).reaches
  · exact .refl

theorem clearAt_reaches (k : Slot) (s : State) : Reaches s (clearAt k s).1 := by
  unfold clearAt
  simp only
  split
  · exact (Event.clear k ‹_›).reaches
  · exact .refl

theorem holdAt_reaches (k : Slot) (s : State) : Reaches s (holdAt k s).1 := by
  unfold holdAt
  simp only
  split
  · exact (Event.swap k .held (.inl ‹_›) (.inr rfl)).reaches
  · exact .refl

theorem releaseAt_reaches (k : Slot) (s : State) : Reaches s (releaseAt k s).1 := by
  unfold releaseAt
  simp only
  split
  · exact (Event.swap k .active (.inr ‹_›) (.inl rfl)).reaches
  · exact .refl

theorem abortAt_reaches (k : Slot) (s : State) : Reaches s (abortAt k s).1 := by
  unfold abortAt
  simp only
  split
  · rename_i h
    exact (Event.abort k h.1).reaches
  · exact .refl

theorem setTimer_reaches {x : TimerSettings} (hx : x.exponent ≤ 7 ∧ 1 ≤ x.period ∧ x.period ≤ 65535) (s : State) :
    Reaches s (setTimer x s).1 := by
  have lawful : s.bu.pt.Lawful → (setTimer x s).1.bu.pt.Lawful := fun h => h.setTimer hx
  cases hr : s.bu.pt.running with
  | true =>
    by_cases hs : x.exponent = s.bu.pt.exponent ∧ x.mode = s.bu.pt.mode ∧ x.selection = s.bu.pt.selection
    · rw [setTimer_running_same hr hs] at lawful ⊢
      exact (Event.sources _ lawful id id).reaches
    · exact setTimer_running_other hr hs ▸ .refl
  | false =>
    rw [setTimer_stopped x hr] at lawful ⊢
    exact (Event.sources _ lawful id id).reaches

theorem startTimer_reaches (s : State) : Reaches s (startTimer s).1 := by
  have lawful : s.bu.pt.Lawful → (startTimer s).1.bu.pt.Lawful := fun h => h.startTimer
  cases hr : s.bu.pt.running with
  | true => exact startTimer_running hr ▸ .refl
  | false =>
    rw [startTimer_stopped hr] at lawful ⊢
    exact (Event.sources _ lawful id id).reaches

theorem releaseTrip_reaches (s : State) : Reaches s (releaseTrip s).1 := by
  unfold releaseTrip
  split
  · rename_i h
    exact (Event.release h.1).reaches
  · exact .refl

theorem readFault_reaches (s : State) : Reaches s (readFault s).1 := by
  unfold readFault
  split
  · exact .refl
  · rename_i r rs h
    refine (Event.attention _ fun hf => ?_).reaches
    have : s.au.faults.length ≤ 4 := hf
    rw [h, List.length_cons] at this
    exact Nat.le_of_succ_le this

theorem timeoutOf_in {b : Byte} {x : Option Nat} (h : timeoutOf b = some x) : ∀ k ∈ x, 4 ≤ k ∧ k ≤ 15 := by
  unfold timeoutOf at h
  split at h
  · cases h; simp
  · split at h
    · cases h; simpa
    · cases h

theorem onSlot_reaches {act : Slot → State → State × Reply} (h : ∀ k s, Reaches s (act k s).1) (slot : Byte) (s : State) :
    Reaches s (onSlot slot act s).1 := by
  rcases onSlot_cases slot act s with ⟨-, e⟩ | ⟨k, -, e⟩
  · exact e ▸ .refl
  · exact e ▸ h k s

theorem onParam_reaches {α : Type} {operand : Option α} {act : α → State → State × Reply}
    (h : ∀ x s, operand = some x → Reaches s (act x s).1) (s : State) : Reaches s (onParam operand act s).1 := by
  rcases onParam_cases operand act s with ⟨-, e⟩ | ⟨x, hx, e⟩
  · exact e ▸ .refl
  · exact e ▸ h x s hx

/-- What the owner of a command does is a path of events. -/
theorem owner_reaches {c : Instr} {act : State → State × Reply} (h : ownerOf c = some act) (s : State) :
    Reaches s (act s).1 := by
  cases c <;> cases h
  case nop padding => unfold answerNop; split <;> exact .refl
  case define ops => exact onSlot_reaches (defineAt_reaches ops) _ s
  case enable => exact onSlot_reaches enableAt_reaches _ s
  case disable => exact onSlot_reaches disableAt_reaches _ s
  case clear => exact onSlot_reaches clearAt_reaches _ s
  case hold => exact onSlot_reaches holdAt_reaches _ s
  case release => exact onSlot_reaches releaseAt_reaches _ s
  case abort => exact onSlot_reaches abortAt_reaches _ s
  case queryWindow => exact onSlot_reaches (fun _ _ => .refl) _ s
  case ptSet => exact onParam_reaches (fun x s hx => setTimer_reaches (timerSettingsOf_in hx) s) s
  case ptStart => exact startTimer_reaches s
  case ptStop => exact reaches_timer _ PeriodTimer.Lawful.stop
  case forceBoundary => exact onParam_reaches (fun src s _ => (Event.deliver src).reaches) s
  case lineSet =>
    exact onParam_reaches (fun x s hx => reaches_line _
      fun _ => s.bu.line.set_lawful (filterSettingsOf_in hx)) s
  case watchSet =>
    exact onParam_reaches (fun w s hw => reaches_watch w fun _ => watchOf_lawful hw) s
  case tripSet =>
    exact onParam_reaches (fun x s hx => (Event.tripLine _ x.2 fun _ => s.tu.filter.set_lawful (tripSettingsOf_in hx)).reaches) s
  case tripNow => exact reaches_tripDemand s .command
  case tripRelease => exact releaseTrip_reaches s
  case clearCauses causes => exact (Event.attention { s.au with causes := s.au.causes &&& ~~~causes } id).reaches
  case setMask causes => exact (Event.attention { s.au with enables := causes } id).reaches
  case readFault => exact readFault_reaches s
  case readRefusal => unfold readRefusal; split <;> exact .refl
  case memorySet => exact onParam_reaches (fun x s hx => (Event.timeout x (timeoutOf_in hx)).reaches) s
  all_goals exact .refl

end Sys2Proof.Machine
end

section
/-! SUPPORT. The bridge's own events as paths: what the ports translate, what an answer does at its client, the parts of a
bridge clock; and with the link's commands every command and every step. -/
namespace Sys2Proof.Machine

/-! ### Translation (sections 5.3 and 5.4) -/

theorem has_iff {re : ResyncEngine} {e : Entry} : re.has e = true ↔ e ∈ re.queue := decide_eq_true_iff

theorem not_staged_bankWord {k : Slot} {d : Descriptor} {bank : Bank} {n : Nat} {t : Translated}
    (h : bankWord k d bank n = .access t) : t.staged = false := by cases h; rfl

theorem not_staged_passed {a : Addr} {slot : Option Slot} {t : Translated} (h : passed a slot = .access t) :
    t.staged = false := by cases h; rfl

theorem not_staged_concealedAccess {w : Window} {k : Slot} {a : Addr} {t : Translated}
    (h : concealedAccess w k a = .access t) : t.staged = false := by
  unfold concealedAccess at h
  split at h
  · cases h
  · exact not_staged_passed h

theorem not_staged_stampAccess {k : Slot} {r : Request} {t : Translated} (h : stampAccess k r = .access t) :
    t.staged = false := by
  unfold stampAccess at h
  split at h
  · cases h
  · exact not_staged_passed h

theorem not_staged_hostReadLogical {s : State} {k : Slot} {w : Window} {d : Descriptor} {n : Nat} {t : Translated}
    (h : hostReadLogical s k w d n = .access t) : t.staged = false := by
  unfold hostReadLogical at h
  split at h
  · split at h <;> exact not_staged_bankWord h
  · split at h <;> exact not_staged_bankWord h
  all_goals exact not_staged_bankWord h

/-- Concealed regions and stamp pairs park nothing. -/
theorem concealedAccess_ne_park {w : Window} {k : Slot} {a : Addr} {e : Entry} : concealedAccess w k a ≠ .park e := by
  unfold concealedAccess passed
  split <;> simp

theorem stampAccess_ne_park {k : Slot} {r : Request} {e : Entry} : stampAccess k r ≠ .park e := by
  unfold stampAccess passed
  split <;> simp

theorem hostReadLogical_ne_park {s : State} {k : Slot} {w : Window} {d : Descriptor} {n : Nat} {e : Entry} :
    hostReadLogical s k w d n ≠ .park e := by
  unfold hostReadLogical bankWord
  split
  · split <;> simp
  · split <;> simp
  all_goals simp

/-- What the host table can give a request: a staged write only in ACTIVE and with no entry of its segment, parking only
of a write and on an entry of the queue (R64, R86). -/
theorem translateHost_access {s : State} {r : Request} {t : Translated} (h : s.translateHost r = .access t) :
    t.staged = false ∨ ∃ k offset d, s.classify r.addr = .logical k offset ∧ (s.window k).desc = some d ∧
      (s.window k).life = .active ∧ { slot := k, seg := d.segmentOf offset } ∉ s.re.queue := by
  unfold State.translateHost at h
  split at h
  · rename_i k offset hclass
    split at h
    · rename_i d hd
      split at h
      · unfold hostWriteLogical at h
        split at h
        · rename_i hl
          split at h
          · cases h
          · rename_i hfree
            exact .inr ⟨k, offset, d, hclass, hd, hl, mt has_iff.2 hfree⟩
        · cases h
        · cases h
        all_goals exact .inl (not_staged_bankWord h)
      · exact .inl (not_staged_hostReadLogical h)
    · exact .inl (not_staged_passed h)
  · exact .inl (not_staged_concealedAccess h)
  · exact .inl (not_staged_stampAccess h)
  · exact .inl (not_staged_passed h)

theorem translateHost_park {s : State} {r : Request} {e : Entry} (h : s.translateHost r = .park e) :
    e ∈ s.re.queue ∧ opIsWrite r.op = true := by
  unfold State.translateHost at h
  split at h
  · split at h
    · split at h
      · rename_i hw
        unfold hostWriteLogical at h
        split at h
        · split at h
          · rename_i he
            cases h
            exact ⟨has_iff.1 he, hw⟩
          · cases h
        all_goals cases h
      · exact absurd h hostReadLogical_ne_park
    · cases h
  · exact absurd h concealedAccess_ne_park
  · exact absurd h stampAccess_ne_park
  · cases h

/-- The consumer table stages nothing and parks nothing. -/
theorem translateConsumer_plain (s : State) (r : Request) :
    (∀ t, s.translateConsumer r = .access t → t.staged = false) ∧ ∀ e, s.translateConsumer r ≠ .park e := by
  unfold State.translateConsumer
  split
  · split
    · split
      · simp
      · unfold consumerReadLogical
        split
        · split <;> simp
        · exact ⟨fun t => not_staged_bankWord, fun e => by simp [bankWord]⟩
    · exact ⟨fun t => not_staged_passed, fun e => by simp [passed]⟩
  · exact ⟨fun t => not_staged_concealedAccess, fun e => concealedAccess_ne_park⟩
  · exact ⟨fun t => not_staged_stampAccess, fun e => stampAccess_ne_park⟩
  · exact ⟨fun t => not_staged_passed, fun e => by simp [passed]⟩

/-! ### The ports -/

theorem stageFor_of_not_staged {s : State} {t : Translated} (h : t.staged = false) (a : Addr) : s.stageFor t a = s := by
  simp [State.stageFor, h]

theorem stageFor_of_staged {s : State} {t : Translated} {a : Addr} {k : Slot} {offset : Nat} {d : Descriptor}
    (h : t.staged = true) (hc : s.classify a = .logical k offset) (hd : (s.window k).desc = some d) :
    s.stageFor t a = s.setWindow k ((s.window k).stage (d.segmentOf offset)) := by
  simp [State.stageFor, h, hc, hd]

theorem refuseHead_reaches {s : State} {p : PortId} (ready : s.Ready p) (a : Addr) (r : Reason) :
    Reaches s (s.refuseHead p a r) :=
  .trans (Event.answer p (.refuse r) ready).reaches
    (Event.attention ((s.answerHead p (.refuse r)).au.takeRefusal { port := p, addr := a, reason := r }) id).reaches

theorem serveHost_reaches {s : State} {r : Request} {rest : List Request} (ready : s.Ready .host)
    (head : s.hp.queue = r :: rest) : Reaches s (s.serveHost r) := by
  have busy : s.hp.queue ≠ [] := by simp [head]
  unfold State.serveHost
  cases h : s.translateHost r with
  | access t =>
    show Reaches s ((s.stageFor t r.addr).request .host t)
    cases hs : t.staged with
    | false => exact stageFor_of_not_staged hs r.addr ▸ (Event.request .host t ready busy).reaches
    | true =>
      obtain no | ⟨k, offset, d, hclass, hd, hl, hfree⟩ := translateHost_access h
      · exact absurd (hs.symm.trans no) (by decide)
      · rw [stageFor_of_staged hs hclass hd]
        exact .trans (Event.stage k _ hl hfree).reaches
          (Event.request (s := s.setWindow k _) .host t ready busy).reaches
  | refuse reason => exact refuseHead_reaches ready r.addr reason
  | fill w => exact (Event.answer .host (.ok w) ready).reaches
  | park e =>
    obtain ⟨hq, hw⟩ := translateHost_park h
    exact (Event.park e ready hq ⟨r, by simp [head], hw⟩).reaches

theorem hostTake_reaches (s : State) : Reaches s s.hostTake := by
  rcases hostTake_cases s with h | ⟨r, rest, hi, hq, ⟨-, h⟩ | ⟨-, h⟩⟩
  · rw [h]
  · exact h ▸ (Event.answer .host (.ok 0) (.inl hi)).reaches
  · exact h ▸ serveHost_reaches (.inl hi) hq

theorem retranslate_reaches (s : State) : Reaches s s.retranslate := by
  rcases retranslate_cases s with h | ⟨r, rest, hp, ha, hq, h⟩
  · rw [h]
  · exact h ▸ serveHost_reaches (.inr ⟨hp, ha⟩) hq

theorem consumerTake_reaches (s : State) : Reaches s s.consumerTake := by
  rcases consumerTake_cases s with h | ⟨r, rest, hi, hq, ⟨-, h⟩ | ⟨-, h⟩⟩
  · rw [h]
  · exact h ▸ (Event.answer .consumer (.ok 0) (.inl hi)).reaches
  · have ready : s.Ready .consumer := .inl hi
    obtain ⟨plain, no_park⟩ := translateConsumer_plain s r
    rw [h]
    cases ht : s.translateConsumer r with
    | access t =>
      show Reaches s ((s.stageFor t r.addr).request .consumer t)
      rw [stageFor_of_not_staged (plain t ht)]
      exact (Event.request .consumer t ready (by simp [hq])).reaches
    | refuse reason => exact refuseHead_reaches ready r.addr reason
    | fill w => exact (Event.answer .consumer (.ok w) ready).reaches
    | park e => exact absurd ht (no_park e)

/-! ### Answers -/

theorem awaiting_cases (q : Port) :
    (∃ t r rest, q.service = .awaiting t ∧ q.queue = r :: rest) ∨ q.isAwaiting = false ∨ q.queue = [] := by
  cases hq : q.queue with
  | nil => exact .inr (.inr rfl)
  | cons r rest =>
    cases hs : q.service with
    | awaiting t => exact .inl ⟨t, r, rest, rfl, rfl⟩
    | _ => exact .inr (.inl (by simp [Port.isAwaiting, hs]))

/-- A STAGING update has a dirty segment, and may become COMPLETE (R22, R27). -/
theorem Window.Lawful.completed {w : Window} (h : w.Lawful) (hl : w.life = .active ∨ w.life = .held)
    (hp : w.phase = .staging) : ({ w with phase := .complete } : Window).Lawful :=
  { h with
    clean_iff := by
      have dirty : w.dirty ≠ 0 := mt h.clean_iff.2 (by simp [hp])
      exact ⟨(nomatch ·), fun no => absurd no dirty⟩
    clean_in := fun active held => absurd hl (not_or.2 ⟨active, held⟩) }

theorem complete_reaches (s : State) (t : Translated) : Reaches s (s.complete t) := by
  rcases complete_cases s t with h | ⟨k, d, -, -, -, -, hl, hp, h⟩ <;> rw [h]
  exact (Event.mark k { s.window k with phase := .complete } rfl rfl rfl fun lawful => lawful.completed hl hp).reaches

/-! What a freed memory port leaves. -/

@[simp] theorem window_freed (s : State) (k : Slot) : s.freed.window k = s.window k := rfl
@[simp] theorem hp_freed (s : State) : s.freed.hp = s.hp := rfl
@[simp] theorem cp_freed (s : State) : s.freed.cp = s.cp := rfl
@[simp] theorem re_freed (s : State) : s.freed.re = s.re := rfl
@[simp] theorem sw_freed (s : State) : s.freed.sw = s.sw := rfl

theorem complete_freed (s : State) (t : Translated) : s.freed.complete t = (s.complete t).freed := by
  unfold State.complete
  simp only [window_freed]
  split
  · split
    · rw [apply_ite State.freed]
      rfl
    · rfl
  · rfl

@[simp] theorem hp_complete (s : State) (t : Translated) : (s.complete t).hp = s.hp := by
  rcases complete_cases s t with h | ⟨k, d, -, -, -, -, -, -, h⟩ <;> simp [h]

@[simp] theorem mp_complete (s : State) (t : Translated) : (s.complete t).mp = s.mp := by
  rcases complete_cases s t with h | ⟨k, d, -, -, -, -, -, -, h⟩ <;> simp [h]

theorem answerHost_of_awaiting {s : State} {t : Translated} {r : Request} {rest : List Request}
    (hs : s.hp.service = .awaiting t) (hq : s.hp.queue = r :: rest) :
    (∀ word, s.answerHost (.ok word) =
      (if opIsWrite r.op then s.complete t else s).answerHead .host (okResponse r.op word)) ∧
    ∀ kind, s.answerHost (.failure kind) = s.answerHead .host .fault := by
  simp [State.answerHost, hs, hq]

theorem answerHost_of_deaf {s : State} (h : s.Deaf .hp) (ans : ClientAnswer) : s.answerHost ans = s := by
  rcases answerHost_cases s ans with same | ⟨t, r, rest, hs, hq, -⟩
  · exact same
  · simp [State.Deaf, Port.isAwaiting, hs, hq] at h

theorem answerConsumer_of_awaiting {s : State} {t : Translated} {r : Request} {rest : List Request}
    (hs : s.cp.service = .awaiting t) (hq : s.cp.queue = r :: rest) :
    (∀ word, s.answerConsumer (.ok word) = s.answerHead .consumer (okResponse r.op word)) ∧
    ∀ kind, s.answerConsumer (.failure kind) = s.answerHead .consumer .fault := by
  simp [State.answerConsumer, hs, hq]

theorem answerConsumer_of_deaf {s : State} (h : s.Deaf .cp) (ans : ClientAnswer) : s.answerConsumer ans = s := by
  rcases answerConsumer_cases s ans with same | ⟨t, r, rest, hs, hq, -⟩
  · exact same
  · simp [State.Deaf, Port.isAwaiting, hs, hq] at h

theorem answerHost_reaches {s : State} (out : s.clientOut = some .hp) (ans : ClientAnswer) :
    Reaches s (s.freed.answerHost ans) := by
  rcases awaiting_cases s.hp with ⟨t, r, rest, hs, hq⟩ | deaf
  · have awaits : s.hp.isAwaiting = true := by simp [Port.isAwaiting, hs]
    obtain ⟨ok, failure⟩ := answerHost_of_awaiting (s := s.freed) hs hq
    cases ans with
    | ok word =>
      rw [ok, complete_freed]
      split
      · have out' : (s.complete t).clientOut = some .hp := by rw [State.clientOut, mp_complete]; exact out
        exact .trans (complete_reaches s t) (Event.served .host _ out' (by simpa using awaits)).reaches
      · exact (Event.served .host _ out awaits).reaches
    | failure kind =>
      rw [failure]
      exact (Event.served .host _ out awaits).reaches
  · rw [answerHost_of_deaf (s := s.freed) deaf]
    exact (Event.stray .hp out deaf).reaches

theorem answerConsumer_reaches {s : State} (out : s.clientOut = some .cp) (ans : ClientAnswer) :
    Reaches s (s.freed.answerConsumer ans) := by
  rcases awaiting_cases s.cp with ⟨t, r, rest, hs, hq⟩ | deaf
  · have awaits : s.cp.isAwaiting = true := by simp [Port.isAwaiting, hs]
    obtain ⟨ok, failure⟩ := answerConsumer_of_awaiting (s := s.freed) hs hq
    cases ans with
    | ok word => rw [ok]; exact (Event.served .consumer _ out awaits).reaches
    | failure kind => rw [failure]; exact (Event.served .consumer _ out awaits).reaches
  · rw [answerConsumer_of_deaf (s := s.freed) deaf]
    exact (Event.stray .cp out deaf).reaches

theorem answerResync_reaches {s : State} (out : s.clientOut = some .re) (ans : ClientAnswer) :
    Reaches s (s.freed.answerResync ans) := by
  cases own : s.re.orphaned with
  | true =>
    have h : s.freed.answerResync ans = { s.freed with re := { s.re with orphaned := false } } := by
      simp [State.answerResync, own]
    exact h ▸ (Event.orphan out own).reaches
  | false =>
    by_cases deaf : s.re.copy = none ∨ s.re.queue = []
    · have h : s.freed.answerResync ans = s.freed := by
        rcases deaf with no | no <;> cases ans <;> simp [State.answerResync, own, no]
      rw [h]
      exact (Event.stray .re out ⟨own, deaf⟩).reaches
    · obtain ⟨hc, hq⟩ := not_or.1 deaf
      obtain ⟨c, copy⟩ := Option.ne_none_iff_exists'.1 hc
      obtain ⟨e, rest, queue⟩ := List.exists_cons_of_ne_nil hq
      cases ans with
      | ok word =>
        have h : s.freed.answerResync (.ok word) = { s.freed with re := s.re.advance c (s.segLenOf e.slot) word } := by
          simp [State.answerResync, own, copy, queue, State.segLenOf]
        exact h ▸ (Event.advance c e rest word out own copy queue).reaches
      | failure kind =>
        have h : s.freed.answerResync (.failure kind) = s.freed.failCopy e.slot := by
          simp [State.answerResync, own, copy, queue]
        exact h ▸ .trans (Event.copyFails c e rest out own copy queue).reaches (reaches_raise _ .windowFault)

theorem answerStamp_reaches {s : State} (out : s.clientOut = some .sw) (ans : ClientAnswer) :
    Reaches s { s.freed with sw := s.sw.answer ans } := by
  by_cases waits : s.sw.discarded = true ∨ s.sw.queue ≠ []
  · exact (Event.stamped ans out waits).reaches
  · obtain ⟨own, empty⟩ : s.sw.discarded = false ∧ s.sw.queue = [] := by simpa using waits
    have h : s.sw.answer ans = s.sw := by
      cases ans <;> simp [StampWriter.answer, own, empty]
    rw [h]
    exact (Event.stray .sw out ⟨own, empty⟩).reaches

theorem answerClient_reaches {s : State} {c : Client} (out : s.clientOut = some c) (ans : ClientAnswer) :
    Reaches s (s.freed.answerClient c ans) := by
  cases c with
  | hp => exact answerHost_reaches out ans
  | cp => exact answerConsumer_reaches out ans
  | re => exact answerResync_reaches out ans
  | sw => exact answerStamp_reaches out ans

theorem endAccess_reaches {s : State} {a : AwaitingAccess} (h : s.mp.awaiting = some a) (ans : ClientAnswer) :
    Reaches s (s.endAccess a.access ans) := by
  have out : s.clientOut = some a.access.client := by simp [State.clientOut, h]
  cases ans with
  | ok word => exact answerClient_reaches out (.ok word)
  | failure kind =>
    rw [endAccess_failure]
    exact .trans (reaches_fault s (a.failure kind))
      (answerClient_reaches (s := { s with au := s.au.withFault (a.failure kind) }) out (.failure kind))

theorem takeAnswer_reaches (s : State) (tag : Tag) (ans : SramAnswer) : Reaches s (s.takeAnswer tag ans) := by
  rcases takeAnswer_cases s tag ans with ⟨h, -⟩ | ⟨a, ha, -, h⟩
  · rw [h]
  · exact h ▸ endAccess_reaches ha _

theorem timeOut_reaches (s : State) : Reaches s s.timeOut := by
  rcases timeOut_cases s with h | ⟨a, ha, -, h⟩
  · rw [h]
  · exact h ▸ endAccess_reaches ha _

/-! ### Grants, copies and boundaries -/

theorem grant_reaches (s : State) : Reaches s s.grant := by
  rcases grant_cases s with h | ⟨a, n, free, choice, h⟩
  · rw [h]
  · exact h ▸ (Event.grant a n free choice).reaches

theorem takeInFlight_reaches (s : State) : Reaches s s.takeInFlight := by
  rcases takeInFlight_cases s with h | ⟨e, rest, idle, queue, -, h⟩
  · rw [h]
  · exact h ▸ (Event.takeInFlight e rest idle queue).reaches

theorem countStep_reaches (s : State) : Reaches s s.countStep := by
  rcases countStep_cases s with ⟨-, h⟩ | ⟨hr, -, h⟩ | ⟨hr, -, h⟩
  · rw [h]
  · exact h ▸ reaches_timer _ fun hl => hl.step hr
  · exact h ▸ .trans (reaches_timer _ fun hl => hl.step hr) (Event.deliver .pt).reaches

theorem bxEdge_reaches (s : State) : Reaches s s.bxEdge := by
  have judged := reaches_watch (s := s) s.bu.watch.edge Watch.Lawful.edge
  unfold State.bxEdge
  split
  · exact .trans judged (Event.deliver .bx).reaches
  · exact .trans judged (reaches_raise _ .earlyBoundary)

theorem sampleLine_reaches (s : State) : Reaches s s.sampleLine := by
  have sampled := reaches_line (s := s) (s.bu.line.sample s.pins.bnd) (·.sample _)
  unfold State.sampleLine
  split
  · exact .trans sampled (bxEdge_reaches _)
  · exact sampled

theorem sampleTrip_reaches (s : State) : Reaches s s.sampleTrip := by
  have sampled := (Event.tripLine (s := s) (s.tu.filter.sample s.pins.trp) s.tu.lineTrip (·.sample _)).reaches
  unfold State.sampleTrip
  split
  · exact .trans sampled (reaches_tripDemand _ .line)
  · exact sampled

theorem watchCount_reaches (s : State) : Reaches s s.watchCount := by
  rcases watchCount_cases s with ⟨-, h⟩ | ⟨hc, hlt, h⟩ | ⟨hc, -, t, ht, h⟩
  · rw [h]
  · exact h ▸ reaches_watch _ fun hl => hl.recount hc hlt (Nat.two_pow_pos _)
  · have lost : Reaches s t := ht ▸ .trans (reaches_watch _
      fun hl => hl.recount hc hl.max_pos (Nat.two_pow_pos _)) (reaches_raise _ .lostBoundary)
    rw [h]
    split
    · exact .trans lost (reaches_tripDemand t .watch)
    · exact lost

theorem restore_reaches (s : State) (k : Slot) : Reaches s (s.restore k) := by
  rcases restore_cases s k with ⟨-, h⟩ | ⟨hp, h⟩
  · rw [h]
  · exact h ▸ (Event.restore k hp).reaches

theorem countLate_reaches (s : State) (k : Slot) : Reaches s (s.countLate k) :=
  .trans (Event.mark k { s.window k with lateCount := min ((s.window k).lateCount + 1) Config.lateCountMax } rfl rfl rfl
    fun h => { h with late_le := Nat.min_le_right .. }).reaches (reaches_raise _ .lateFlip)

theorem eligible_reaches {s : State} {k : Slot} {d : Descriptor} (hd : (s.window k).desc = some d) (seq : BitVec 32) :
    Reaches s (s.eligible k d seq) := by
  rcases eligible_cases s k d seq with ⟨-, h⟩ | ⟨hp, hm, h⟩ | ⟨-, -, h⟩ <;> rw [h]
  · exact restore_reaches s k
  · exact .trans (restore_reaches s k) (Event.flip k d seq (by simpa using hd) (by simpa using hp) hm).reaches
  · exact .trans (restore_reaches s k) (countLate_reaches _ k)

theorem takeBoundary_reaches (s : State) (k : Slot) : Reaches s (s.takeBoundary k) := by
  have taken : ∀ {b rest d n}, (s.window k).inbox = b :: rest → (s.window k).desc = some d →
      ((s.window k).Lawful → n < d.cadence) →
      Reaches s (s.setWindow k { s.window k with inbox := rest, cadenceCount := n }) := by
    intro b rest d n hi hd hn
    refine (Event.mark k { s.window k with inbox := rest, cadenceCount := n } rfl rfl rfl fun h => ?_).reaches
    exact { h with
      cadence_lt := fun d' hd' => by
        obtain rfl : d = d' := Option.some.inj (hd.symm.trans hd')
        exact hn h
      inbox_in := fun no => absurd (h.inbox_in no) (by simp [hi])
      inbox_src := fun d' hd' b' hb' => h.inbox_src d' hd' b' (hi ▸ List.mem_cons_of_mem b hb') }
  rcases takeBoundary_cases s k with h | ⟨b, rest, d, hi, hd, ⟨hc, h⟩ | ⟨hc, h⟩⟩ <;> rw [h]
  · exact taken hi hd fun _ => hc
  · refine .trans (taken hi hd fun hl => ?_) (eligible_reaches (by simpa using hd) _)
    obtain ⟨-, -, cadence_pos, -⟩ := hl.desc_valid d hd
    exact cadence_pos

/-! ### Commands -/

/-- Every command is a path of events. -/
theorem exec_reaches {c : Instr} {s t : State} (h : exec c s = .next t) : Reaches s t := by
  have link : ∀ {c t}, (commandBody c).isSome = true → exec c s = .next t → Reaches s t := by
    intro c t hc h
    rcases commandBody_isSome_iff.1 hc with rfl | ⟨act, hact⟩
    · replace h : execSoftReset s = .next t := h
      unfold execSoftReset at h
      cases h
      split
      · exact reaches_link s _
      · exact .trans Event.softReset.reaches (reaches_link _ _)
    · rw [exec_of_owner hact] at h
      cases h
      rcases takeCommand_cases s c act with e | ⟨ml, e, -⟩ <;> rw [e]
      · exact reaches_link s _
      · exact .trans (owner_reaches hact s) (reaches_link _ _)
  cases c
  case fullReset csnLow => cases h; exact (Event.fullReset csnLow).reaches
  case frameNotTaken bits =>
    rcases exec_frameNotTaken_cases bits s with ⟨ml, e⟩ | ⟨c, -, hc, e⟩
    · cases e.symm.trans h
      exact reaches_link s ml
    · exact link hc (e ▸ h)
  case requestAccept p r => cases h; exact (Event.offer p r).reaches
  case hostTakeInService => cases h; exact hostTake_reaches s
  case consumerTakeInService => cases h; exact consumerTake_reaches s
  case parkedWriteTranslateAfresh => cases h; exact retranslate_reaches s
  case memoryGrant => cases h; exact grant_reaches s
  case memoryAnswer tag ans => cases h; exact takeAnswer_reaches s tag ans
  case accessTimeout => cases h; exact timeOut_reaches s
  case resyncTakeInFlight => cases h; exact takeInFlight_reaches s
  case ptCountStep => cases h; exact countStep_reaches s
  case lineSample bnd =>
    cases h
    exact .trans (Event.outside s.ml { s.pins with bnd := bnd } s.out s.choices s.pending).reaches (sampleLine_reaches _)
  case watchStep => cases h; exact watchCount_reaches s
  case tripSample trp =>
    cases h
    exact .trans (Event.outside s.ml { s.pins with trp := trp } s.out s.choices s.pending).reaches (sampleTrip_reaches _)
  case windowTakeBoundary k => cases h; exact takeBoundary_reaches s k
  case csnFall => cases h; exact reaches_link s _
  case discardedFrame =>
    cases h
    split
    · exact reaches_link s _
    · exact .refl
  all_goals exact link rfl h

/-! ### One bridge clock -/

/-- A part of a clock is a path when the rise of its count is one. -/
theorem ClockPart.reaches {due : Prop} {c : Instr} {counted s t : State} (h : ClockPart due c counted s t)
    (rise : ¬ due → Reaches s counted) : Reaches s t := by
  by_cases hd : due
  · exact exec_reaches (h.1 hd)
  · exact h.2 hd ▸ rise hd

theorem clockMemory_reaches (s : State) : Reaches s s.clockMemory := by
  refine (clockMemory_part s).reaches fun early => ?_
  cases h : s.mp.awaiting with
  | none =>
    have same : { s with mp := { s.mp with awaiting := none } } = s := by rw [← h]
    exact same.symm ▸ .refl
  | some a =>
    refine (Event.clocked a h fun l hl => ?_).reaches
    by_contra no
    exact early ⟨a, h, l, hl, Nat.le_of_not_lt no⟩

theorem clockTimer_reaches (s : State) : Reaches s s.clockTimer := by
  obtain ⟨stopped, running⟩ := clockTimer_part s
  cases hr : s.bu.pt.running with
  | false => rw [stopped hr]
  | true =>
    exact (running hr).reaches fun early => reaches_timer _ fun hl => hl.counted hr early

theorem clockLine_reaches (s : State) : Reaches s s.clockLine :=
  (clockLine_part s).reaches fun early => reaches_line _ fun hl => hl.counted early

theorem clockTrip_reaches (s : State) : Reaches s s.clockTrip :=
  (clockTrip_part s).reaches fun early => (Event.tripLine _ s.tu.lineTrip fun hl => hl.counted early).reaches

theorem clockWatch_reaches (s : State) : Reaches s s.clockWatch := by
  obtain ⟨resting, counting⟩ := clockWatch_part s
  by_cases hc : s.bu.watch.enable = true ∧ s.bu.watch.first = false
  · refine (counting hc.1 hc.2).reaches fun early => ?_
    refine reaches_watch _ fun hl => hl.recount ?_ hl.count_lt ?_
    · simp [Watch.counting, hc]
    · exact Nat.lt_of_not_le fun no => early ⟨hc.1, hc.2, no⟩
  · rw [resting (by simpa [-not_and, not_and_or] using hc)]

theorem tick_reaches (s : State) : Reaches s s.tick :=
  tick_keeps (P := Reaches s)
    (fun u n h => .trans h (Event.outside u.ml u.pins u.out n u.pending).reaches)
    (fun u h => .trans h (clockMemory_reaches u)) (fun u h => .trans h (clockTimer_reaches u))
    (fun u h => .trans h (clockLine_reaches u)) (fun u h => .trans h (clockTrip_reaches u))
    (fun u h => .trans h (clockWatch_reaches u)) s .refl

/-- Every step is a path of events, so a law that every event keeps is kept by every step. -/
theorem step_reaches {s t : State} (h : step s = .next t) : Reaches s t := by
  unfold step at h
  split at h
  · cases h
    exact tick_reaches s
  · exact .trans (Event.outside s.ml s.pins s.out s.choices _).reaches (exec_reaches h)

theorem kept_of_events {P : State → Prop} (h : ∀ s t, Event s t → P s → P t) : Kept P :=
  fun _ _ hs hstep => (step_reaches hstep).keeps h hs

end Sys2Proof.Machine
end

section
/-! SUPPORT. The laws of the window records and the overlap law (R2, R4, R9, R18, R22), kept by every event. -/
namespace Sys2Proof.Machine

/-! ### One record -/

/-- Counts and update record restarted, in a lifecycle that has the descriptor, with no boundary waiting out of service:
what ENABLE, DISABLE and the soft reset leave. -/
theorem Window.Lawful.restartedIn {w : Window} (h : w.Lawful) (hl : w.life ≠ .unused) {l : Lifecycle}
    (hl' : l ≠ .unused) {inbox : List Boundary} (hi : inbox = [] ∨ inbox = w.inbox)
    (empty : l.inService = false → inbox = []) : ({ w.restarted with life := l, inbox := inbox } : Window).Lawful where
  desc_iff := ⟨fun _ => hl', fun _ => h.desc_iff.2 hl⟩
  desc_valid := h.desc_valid
  clean_iff := ⟨fun _ => rfl, fun _ => rfl⟩
  clean_in _ _ := rfl
  cadence_lt d hd := by
    obtain ⟨-, -, cadence_pos, -⟩ := h.desc_valid d hd
    exact cadence_pos
  late_le := Nat.zero_le _
  inbox_in := empty
  inbox_src d hd b hb := by
    rcases hi with rfl | rfl
    · cases hb
    · exact h.inbox_src d hd b hb

theorem Window.Lawful.enabled {w : Window} (h : w.Lawful) (hl : w.life = .defined) :
    ({ w.restarted with life := .active } : Window).Lawful :=
  h.restartedIn (by simp [hl]) (by simp) (.inr rfl) (by simp [Lifecycle.inService])

theorem Window.Lawful.disabled {w : Window} (h : w.Lawful) (hl : w.life ≠ .unused) :
    ({ w.restarted with life := .defined, inbox := [] } : Window).Lawful :=
  h.restartedIn hl (by simp) (.inl rfl) fun _ => rfl

theorem Window.Lawful.softReset {w : Window} (h : w.Lawful) : w.softReset.Lawful := by
  unfold Window.softReset
  split
  · exact h
  all_goals exact h.disabled (by simp [*])

/-- A record loaded by DEFINE (R8). -/
theorem Window.Lawful.loaded {w : Window} (h : w.Lawful) (free : w.life.inService = false) {d : Descriptor}
    (valid : d.valid) : ({ w.restarted with desc := some d, life := .defined, gen := 0, live := .a } : Window).Lawful where
  desc_iff := by simp
  desc_valid := by simpa
  clean_iff := ⟨fun _ => rfl, fun _ => rfl⟩
  clean_in _ _ := rfl
  cadence_lt d' hd := by
    obtain ⟨-, -, cadence_pos, -⟩ := valid
    cases hd
    exact cadence_pos
  late_le := Nat.zero_le _
  inbox_in _ := h.inbox_in free
  inbox_src d' _ b hb := by
    have hb' : b ∈ w.inbox := hb
    simp [h.inbox_in free] at hb'

theorem Window.Lawful.cleared {w : Window} (h : w.Lawful) (hl : w.life = .defined) :
    ({ w with life := .unused, desc := none } : Window).Lawful where
  desc_iff := by simp
  desc_valid := by simp
  clean_iff := h.clean_iff
  clean_in _ _ := h.clean_in (by simp [hl]) (by simp [hl])
  cadence_lt := by simp
  late_le := h.late_le
  inbox_in _ := h.inbox_in (by simp [hl, Lifecycle.inService])
  inbox_src := by simp

/-- Between ACTIVE and HELD only the lifecycle moves (R11, R12). -/
theorem Window.Lawful.swapped {w : Window} (h : w.Lawful) (old : w.life = .active ∨ w.life = .held) {l : Lifecycle}
    (new : l = .active ∨ l = .held) : ({ w with life := l } : Window).Lawful :=
  { h with
    desc_iff := h.desc_iff.trans (by rcases old with e | e <;> rcases new with rfl | rfl <;> simp [e])
    clean_in := fun a b => absurd new (not_or.2 ⟨a, b⟩)
    inbox_in := by rcases new with rfl | rfl <;> simp [Lifecycle.inService] }

/-- A set with a segment added is not empty. -/
theorem or_twoPow_ne_zero (set : SegmentSet) (seg : Segment) : set ||| BitVec.twoPow 32 seg.val ≠ 0 := by
  intro h
  have := congrArg (·.getLsbD seg.val) h
  simp [seg.isLt] at this

theorem Window.Lawful.staged {w : Window} (h : w.Lawful) (hl : w.life = .active) (seg : Segment) :
    (w.stage seg).Lawful :=
  { h with
    clean_iff := ⟨(nomatch ·), fun no => absurd no (or_twoPow_ne_zero _ seg)⟩
    clean_in := fun a _ => absurd hl a }

theorem Window.Lawful.aborted {w : Window} (h : w.Lawful) : w.cleaned.Lawful :=
  { h with
    clean_iff := ⟨fun _ => rfl, fun _ => rfl⟩
    clean_in := fun _ _ => rfl }

theorem Window.Lawful.flipped {w : Window} (h : w.Lawful) (hl : w.life = .active) (d : Descriptor) :
    (w.flipped d).Lawful := by
  have life : (w.flipped d).life = .active ∨ (w.flipped d).life = .held := by
    simp [Window.flipped, hl]
  have swapped := h.aborted.swapped (.inl hl) life
  exact { swapped with late_le := Nat.zero_le _ }

theorem Window.Lawful.failed {w : Window} (h : w.Lawful) (hl : w.life = .active ∨ w.life = .held) : w.fail.Lawful :=
  { h.aborted with
    desc_iff := h.desc_iff.trans (by rcases hl with e | e <;> simp [Window.fail, e])
    clean_in := fun _ _ => rfl
    late_le := Nat.zero_le _
    inbox_in := (nomatch ·) }

/-- A record that receives a boundary is in service, of a descriptor with the boundary's source (R36). -/
theorem receives_iff {w : Window} {src : Source} :
    w.receives src = true ↔ w.life.inService = true ∧ ∃ d ∈ w.desc, d.source = src := by
  simp [Window.receives, Option.any_eq_true]

theorem receive_cases (w : Window) (b : Boundary) :
    w.receive b = w ∨ w.life.inService = true ∧ (∃ d ∈ w.desc, d.source = b.source) ∧
      w.receive b = { w with inbox := w.inbox ++ [b] } := by
  unfold Window.receive
  split
  · rename_i h
    obtain ⟨hl, hd⟩ := receives_iff.1 h
    exact .inr ⟨hl, hd, rfl⟩
  · exact .inl rfl

theorem Window.Lawful.received {w : Window} (h : w.Lawful) (b : Boundary) : (w.receive b).Lawful := by
  rcases receive_cases w b with e | ⟨hl, ⟨d, hd, hsrc⟩, e⟩ <;> rw [e]
  · exact h
  · exact { h with
      inbox_in := fun no => absurd (hl.symm.trans no) (by decide)
      inbox_src := fun d' hd' b' hb' => by
        obtain rfl : d = d' := Option.some.inj (hd.symm.trans hd')
        rcases List.mem_append.1 hb' with hb' | hb'
        · exact h.inbox_src d hd b' hb'
        · rw [List.mem_singleton.1 hb', hsrc] }

theorem Window.lawful_initial : Window.initial.Lawful := by
  constructor <;> simp [Window.initial]

/-! ### The window table -/

theorem WindowsLawful.setWindow {s : State} {k : Slot} {w : Window} (h : WindowsLawful s) (hw : w.Lawful) :
    WindowsLawful (s.setWindow k w) := by
  intro j
  rw [window_setWindow]
  split
  · exact hw
  · exact h j

theorem WindowsLawful.congr {s t : State} (h : WindowsLawful s) (e : t.windows = s.windows) : WindowsLawful t :=
  fun k => window_congr e k ▸ h k

/-- A window with an entry in a lawful resync queue is ACTIVE or HELD. -/
theorem QueueLawful.head_in_service {s : State} (h : QueueLawful s) {e : Entry} {rest : List Entry}
    (hq : s.re.queue = e :: rest) : (s.window e.slot).life = .active ∨ (s.window e.slot).life = .held :=
  h.in_service e (by simp [hq])

theorem mayFlip_iff {s : State} {k : Slot} : s.mayFlip k = true ↔
    (s.window k).life = .active ∧ s.re.holds k = false ∧ (s.tu.entry k).view = .live := by
  simp [State.mayFlip, and_assoc]

/-- Every event keeps the laws of the window records. -/
theorem WindowsLawful.event {s t : State} (ev : Event s t) (h : WindowsLawful s) (hq : QueueLawful s) :
    WindowsLawful t := by
  cases ev
  case define k d free valid _ => exact h.setWindow ((h k).loaded free valid)
  case clear k life => exact h.setWindow ((h k).cleared life)
  case swap k l old new => exact h.setWindow ((h k).swapped old new)
  case mark k w _ _ _ lawful => exact h.setWindow (lawful (h k))
  case stage k seg life _ => exact h.setWindow ((h k).staged life seg)
  case enable k d life _ => exact (h.setWindow ((h k).enabled life)).congr rfl
  case disable k life =>
    exact (h.setWindow ((h k).disabled fun no => by simp [no, Lifecycle.inService] at life)).congr rfl
  case abort k _ => exact (h.setWindow (h k).aborted).congr rfl
  case flip k d seq _ _ may => exact (h.setWindow ((h k).flipped (mayFlip_iff.1 may).1 d)).congr rfl
  case copyFails c e rest _ _ _ queue =>
    exact (h.setWindow ((h e.slot).failed (hq.head_in_service queue))).congr rfl
  case deliver src => exact fun k => window_deliver s src k ▸ (h k).received _
  case softReset =>
    intro k
    have e : s.softReset.window k = (s.window k).softReset := by simp [State.softReset, State.window]
    exact e ▸ (h k).softReset
  case fullReset csnLow =>
    intro k
    have e : (s.fullReset csnLow).window k = .initial := window_reset k
    exact e ▸ Window.lawful_initial
  all_goals exact h.congr (by simp [State.freed])

/-! ### The overlap law (R4) -/

theorem Region.disjoint_comm (r t : Region) : r.disjoint t = t.disjoint r := by
  simp [Region.disjoint, Bool.or_comm]

theorem crossDisjoint_comm {rs ts : List Region} (h : crossDisjoint rs ts = true) : crossDisjoint ts rs = true := by
  simp only [crossDisjoint, List.all_eq_true] at h ⊢
  exact fun t ht r hr => Region.disjoint_comm t r ▸ h r hr t ht

/-- An event that gives no window a descriptor it did not have keeps the overlap law. -/
theorem NoOverlap.of_desc {s t : State} (h : NoOverlap s)
    (hd : ∀ k, (t.window k).desc = (s.window k).desc ∨ (t.window k).desc = none) : NoOverlap t := by
  intro j k hjk d hj e hk
  have old : ∀ {i x}, x ∈ (t.window i).desc → x ∈ (s.window i).desc := by
    intro i x hx
    rcases hd i with same | none
    · exact same ▸ hx
    · simp [none] at hx
  exact h j k hjk d (old hj) e (old hk)

/-- A descriptor that DEFINE's overlap test passes is clear of every other window's. -/
theorem NoOverlap.define {s : State} {k : Slot} {d : Descriptor} {w : Window} (h : NoOverlap s)
    (windows : WindowsLawful s) (apart : s.overlaps k d = false) (hw : w.desc = some d) :
    NoOverlap (s.setWindow k w) := by
  have clear : ∀ j, j ≠ k → ∀ e ∈ (s.window j).desc, crossDisjoint d.claimed e.claimed = true := by
    intro j hj e he
    have used : (s.window j).life ≠ .unused := (windows j).desc_iff.1 (by simp [Option.mem_def.1 he])
    simp only [State.overlaps, Bool.or_eq_false_iff, List.any_eq_false] at apart
    have := apart.2 j (List.mem_finRange j)
    simpa [hj, used, Option.mem_def.1 he] using this
  intro i j hij x hx y hy
  rw [window_setWindow] at hx hy
  split at hx
  · obtain rfl : d = x := by simpa [hw] using hx
    rw [if_neg (by rintro rfl; exact hij ‹_›)] at hy
    exact clear j (by rintro rfl; exact hij ‹_›) y hy
  · split at hy
    · obtain rfl : d = y := by simpa [hw] using hy
      exact crossDisjoint_comm (clear i ‹_› x hx)
    · exact h i j hij x hx y hy

/-- A record replaced by one with the same descriptor. -/
theorem NoOverlap.record {s t : State} {k : Slot} {w : Window} (h : NoOverlap s) (e : t.windows = (s.setWindow k w).windows)
    (hd : w.desc = (s.window k).desc) : NoOverlap t := by
  refine h.of_desc fun j => .inl ?_
  rw [window_congr e, window_setWindow]
  split
  · rename_i hj
    exact hj ▸ hd
  · rfl

theorem desc_receive (w : Window) (b : Boundary) : (w.receive b).desc = w.desc := by
  unfold Window.receive; split <;> rfl

theorem desc_softReset (w : Window) : w.softReset.desc = w.desc := by
  unfold Window.softReset; split <;> rfl

/-- Every event keeps the overlap law. -/
theorem NoOverlap.event {s t : State} (ev : Event s t) (h : NoOverlap s) (windows : WindowsLawful s) : NoOverlap t := by
  cases ev
  case define k d _ _ apart => exact h.define windows apart rfl
  case clear k _ =>
    refine h.of_desc fun j => ?_
    rw [window_setWindow]
    split
    · exact .inr rfl
    · exact .inl rfl
  case mark k w _ desc _ _ => exact h.record rfl desc
  case deliver src => exact h.of_desc fun k => .inl (by rw [window_deliver, desc_receive])
  case softReset => exact h.of_desc fun k => .inl (by simp [State.softReset, State.window, desc_softReset])
  case fullReset => exact h.of_desc fun k => .inr (congrArg Window.desc (window_reset k))
  case swap | stage | enable | disable | abort | flip | copyFails => exact h.record rfl rfl
  all_goals exact h.of_desc fun k => .inl (congrArg _ (window_congr (by simp [State.freed]) k))

end Sys2Proof.Machine
end

section
/-! SUPPORT. The laws of the resync queue (R9, R24, R56, R59), kept by every event. -/
namespace Sys2Proof.Machine

/-! ### States that share the resync engine -/

theorem segLenOf_congr {s t : State} {k : Slot} (h : (t.window k).desc = (s.window k).desc) :
    t.segLenOf k = s.segLenOf k := by simp [State.segLenOf, h]

/-- The engine is left alone, and the windows of its entries stay in service, with their descriptors and with no queued
segment dirty. -/
theorem QueueLawful.of_windows {s t : State} (h : QueueLawful s) (hre : t.re = s.re)
    (hw : ∀ e ∈ s.re.queue, ((t.window e.slot).life = .active ∨ (t.window e.slot).life = .held) ∧
      (t.window e.slot).dirty.getLsbD e.seg.val = false ∧ (t.window e.slot).desc = (s.window e.slot).desc) :
    QueueLawful t := by
  constructor <;> rw [hre]
  · exact h.nodup
  · exact fun e he => (hw e he).1
  · exact fun e he => (hw e he).2.1
  · intro c hc
    obtain ⟨e, he, hlt⟩ := h.in_flight c hc
    exact ⟨e, he, segLenOf_congr (hw e (List.mem_of_mem_head? he)).2.2 ▸ hlt⟩
  · exact h.awaited_in

theorem QueueLawful.congr {s t : State} (h : QueueLawful s) (hre : t.re = s.re) (hw : t.windows = s.windows) :
    QueueLawful t :=
  h.of_windows hre fun e he => by
    rw [window_congr hw]
    exact ⟨h.in_service e he, h.not_dirty e he, rfl⟩

/-- A record replaced by one with the same descriptor and no queued segment dirty, still ACTIVE or HELD if it was. -/
theorem QueueLawful.setWindow {s : State} {k : Slot} {w : Window} (h : QueueLawful s)
    (life : (s.window k).life = .active ∨ (s.window k).life = .held → w.life = .active ∨ w.life = .held)
    (desc : w.desc = (s.window k).desc)
    (dirty : ∀ e ∈ s.re.queue, e.slot = k → w.dirty.getLsbD e.seg.val = false) : QueueLawful (s.setWindow k w) := by
  refine h.of_windows rfl fun e he => ?_
  rw [window_setWindow]
  split
  · rename_i hk
    exact ⟨life (hk ▸ h.in_service e he), dirty e he hk, hk ▸ desc⟩
  · exact ⟨h.in_service e he, h.not_dirty e he, rfl⟩

/-- A record that no entry names may be replaced by any other. -/
theorem QueueLawful.setWindow_free {s : State} {k : Slot} (h : QueueLawful s)
    (free : (s.window k).life.inService = false) (w : Window) : QueueLawful (s.setWindow k w) := by
  refine h.of_windows rfl fun e he => ?_
  rw [window_setWindow_ne s w (h.no_entry free e he)]
  exact ⟨h.in_service e he, h.not_dirty e he, rfl⟩

/-! ### Groups appended (R57) -/

/-- A group of a window appended, none of it queued before, and the window's record left ACTIVE or HELD with an empty dirty
set: what ENABLE, ABORT and a flip do. -/
theorem QueueLawful.append {s t : State} {k : Slot} {set : SegmentSet} {w : Window} (h : QueueLawful s)
    (hre : t.re = s.re.append k set) (hw : t.windows = (s.setWindow k w).windows)
    (free : ∀ e ∈ s.re.queue, e.slot = k → set.getLsbD e.seg.val = false)
    (life : w.life = .active ∨ w.life = .held) (clean : w.dirty = 0) (desc : w.desc = (s.window k).desc) :
    QueueLawful t := by
  have at_slot : ∀ e ∈ t.re.queue, ((t.window e.slot).life = .active ∨ (t.window e.slot).life = .held) ∧
      (t.window e.slot).dirty.getLsbD e.seg.val = false := by
    intro e he
    rw [window_congr hw, window_setWindow]
    split
    · exact ⟨life, by simp [clean]⟩
    · rename_i hne
      have old : e ∈ s.re.queue := (mem_append.1 (hre ▸ he)).resolve_right fun new => hne new.1
      exact ⟨h.in_service e old, h.not_dirty e old⟩
  have descs : ∀ j, (t.window j).desc = (s.window j).desc := by
    intro j
    rw [window_congr hw, window_setWindow]
    split
    · rename_i hj
      exact hj ▸ desc
    · rfl
  refine ⟨hre ▸ append_nodup h.nodup free, fun e he => (at_slot e he).1, fun e he => (at_slot e he).2, ?_, ?_⟩
  · intro c hc
    obtain ⟨e, he, hlt⟩ := h.in_flight c (by rwa [hre] at hc)
    refine ⟨e, ?_, segLenOf_congr (descs e.slot) ▸ hlt⟩
    rw [hre]
    simp only [ResyncEngine.append, List.head?_append, Option.mem_def.1 he]
    rfl
  · intro e he
    rw [hre] at he ⊢
    exact mem_append.2 (.inl (h.awaited_in e he))

/-! ### Purges (R68) -/

theorem QueueLawful.withoutCopy {s : State} (h : QueueLawful s) :
    QueueLawful { s with re := { s.re with copy := none } } :=
  ⟨h.nodup, h.in_service, h.not_dirty, by simp, h.awaited_in⟩

theorem inFlight_of_copy {re : ResyncEngine} {c : Copy} (h : re.copy = some c) : re.inFlight = re.queue.head? := by
  simp [ResyncEngine.inFlight, h]

/-- The copy left by a purge is the one there was, of an entry of another window. -/
theorem copy_purge {re : ResyncEngine} {k : Slot} {c : Copy} (h : (re.purge k).copy = some c) :
    re.copy = some c ∧ (re.purge k).orphaned = re.orphaned ∧ ∀ e ∈ re.queue.head?, e.slot ≠ k := by
  have purged := purge_purged re k
  by_cases mine : ∃ e ∈ re.inFlight, e.slot = k
  · obtain ⟨e, he, hk⟩ := mine
    simp [(purged.mine e he hk).1] at h
  · push Not at mine
    obtain ⟨copy, orphaned⟩ := purged.other mine
    have hc : re.copy = some c := copy ▸ h
    exact ⟨hc, orphaned, inFlight_of_copy hc ▸ mine⟩

theorem head_filter_of_head {queue : List Entry} {e : Entry} {k : Slot} (h : e ∈ queue.head?) (hk : e.slot ≠ k) :
    e ∈ (queue.filter (·.slot ≠ k)).head? := by
  cases queue with
  | nil => cases h
  | cons a rest =>
    obtain rfl : a = e := by simpa using h
    simp [hk]

/-- A purge takes every entry of its window, whose record may then be any. -/
theorem QueueLawful.purge {s t : State} {k : Slot} {w : Window} (h : QueueLawful s) (hre : t.re = s.re.purge k)
    (hw : t.windows = (s.setWindow k w).windows) : QueueLawful t := by
  have other : ∀ {j}, j ≠ k → t.window j = s.window j := fun hj => by
    rw [window_congr hw, window_setWindow_ne s w hj]
  have mem : ∀ {e}, e ∈ t.re.queue → e ∈ s.re.queue ∧ e.slot ≠ k := fun he => mem_purge.1 (hre ▸ he)
  refine ⟨hre ▸ h.nodup.filter _, fun e he => ?_, fun e he => ?_, fun c hc => ?_, fun e he => ?_⟩
  · obtain ⟨old, hk⟩ := mem he
    exact other hk ▸ h.in_service e old
  · obtain ⟨old, hk⟩ := mem he
    exact other hk ▸ h.not_dirty e old
  · rw [hre] at hc ⊢
    obtain ⟨copy, -, head⟩ := copy_purge hc
    obtain ⟨e, he, hlt⟩ := h.in_flight c copy
    exact ⟨e, head_filter_of_head he (head e he), segLenOf_congr (congrArg _ (other (head e he))) ▸ hlt⟩
  · rw [hre] at he ⊢
    rw [(purge_purged s.re k).awaited] at he
    split at he
    · cases he
    · rename_i hk
      refine mem_purge.2 ⟨h.awaited_in e he, fun hs => hk ?_⟩
      simp [Option.mem_def.1 he, hs]

/-! ### Parking, copies and grants -/

/-- Parking on an entry of the queue moves entries about and awaits one (R65). -/
theorem QueueLawful.await {s t : State} {e : Entry} (h : QueueLawful s) (queued : e ∈ s.re.queue)
    (hre : t.re = s.re.await e) (hw : t.windows = s.windows) : QueueLawful t := by
  have perm : t.re.queue.Perm s.re.queue := hre ▸ promoted_perm _ queued
  refine ⟨perm.nodup_iff.2 h.nodup, fun e' he' => ?_, fun e' he' => ?_, fun c hc => ?_, fun e' he' => ?_⟩
  · exact window_congr hw _ ▸ h.in_service e' (perm.mem_iff.1 he')
  · exact window_congr hw _ ▸ h.not_dirty e' (perm.mem_iff.1 he')
  · have copy : s.re.copy = some c := by rw [hre] at hc; exact hc
    obtain ⟨head, he, hlt⟩ := h.in_flight c copy
    have nonempty : s.re.queue ≠ [] := List.ne_nil_of_mem (List.mem_of_mem_head? he)
    refine ⟨head, ?_, segLenOf_congr (congrArg _ (window_congr hw _)) ▸ hlt⟩
    rw [hre]
    simpa only [ResyncEngine.await, copy, Option.isSome_some, promoted_head e nonempty] using he
  · obtain rfl : e = e' := by rw [hre] at he'; simpa [ResyncEngine.await] using he'
    exact perm.mem_iff.2 queued

/-- Another copy of the same entry, its word index inside the segment (R59). -/
theorem QueueLawful.recopy {s t : State} {copy : Option Copy} {orphaned : Bool} (h : QueueLawful s)
    (hre : t.re = { s.re with copy := copy, orphaned := orphaned }) (hw : t.windows = s.windows)
    (index : ∀ c ∈ copy, ∃ e ∈ s.re.queue.head?, c.index < s.segLenOf e.slot) : QueueLawful t := by
  have lawful : QueueLawful { s with re := { s.re with copy := copy, orphaned := orphaned } } :=
    ⟨h.nodup, h.in_service, h.not_dirty, index, h.awaited_in⟩
  exact lawful.congr hre hw

/-- The finished entry leaves the queue, and is no longer awaited (R62). -/
theorem QueueLawful.finish {s t : State} {e : Entry} {rest : List Entry} (h : QueueLawful s)
    (queue : s.re.queue = e :: rest) (hre : t.re = s.re.finish) (hw : t.windows = s.windows) : QueueLawful t := by
  have sub : ∀ {e'}, e' ∈ rest → e' ∈ s.re.queue := fun he => queue ▸ List.mem_cons_of_mem e he
  rw [finish_of_cons queue] at hre
  constructor <;> rw [hre]
  · exact (List.nodup_cons.1 (queue ▸ h.nodup)).2
  · exact fun e' he' => window_congr hw _ ▸ h.in_service e' (sub he')
  · exact fun e' he' => window_congr hw _ ▸ h.not_dirty e' (sub he')
  · simp
  · intro e' he'
    simp only at he' ⊢
    split at he'
    · cases he'
    · rename_i hne
      have old := h.awaited_in e' he'
      rw [queue] at old
      exact (List.mem_cons.1 old).resolve_left fun same => hne (same ▸ he')

/-- An OK answer moves the copy on inside the segment, or finishes it (R61, R62). -/
theorem QueueLawful.advance {s t : State} {c : Copy} {e : Entry} {rest : List Entry} {word : Word} (h : QueueLawful s)
    (copy : s.re.copy = some c) (queue : s.re.queue = e :: rest)
    (hre : t.re = s.re.advance c (s.segLenOf e.slot) word) (hw : t.windows = s.windows) : QueueLawful t := by
  unfold ResyncEngine.advance at hre
  split at hre
  · refine h.recopy hre hw fun c' hc' => ?_
    obtain ⟨head, hhead, hlt⟩ := h.in_flight c copy
    cases hc'
    exact ⟨head, hhead, hlt⟩
  · split at hre
    · rename_i hlt
      refine h.recopy hre hw fun c' hc' => ?_
      cases hc'
      exact ⟨e, by simp [queue], hlt⟩
    · exact h.finish queue hre hw

/-- A segment of a valid descriptor has a word (R2, R3). -/
theorem segLen_pos {d : Descriptor} (h : d.valid) : 0 < d.segLen := by
  obtain ⟨k_ge, -⟩ := h
  have : 2 ^ 5 ≤ 2 ^ d.sizeExp := Nat.pow_le_pow_right (by decide) k_ge
  exact Nat.div_pos this (by decide)

theorem segLenOf_pos {s : State} (h : WindowsLawful s) (k : Slot) : 0 < s.segLenOf k := by
  unfold State.segLenOf
  cases hd : (s.window k).desc with
  | none => exact Nat.one_pos
  | some d => exact segLen_pos ((h k).desc_valid d hd)

/-- A grant marks the copy's access granted when it is the engine's, and leaves the engine alone when it is not. -/
theorem re_issue (s : State) (a : Access) (n : Nat) :
    (s.issue a n).re = if a.client = .re then { s.re with copy := s.re.copy.map fun c => { c with stage := .granted } }
      else s.re := by
  cases h : a.client <;> simp [State.issue, State.markGranted, h]

theorem QueueLawful.initial {t : State} (h : t.re = .initial) : QueueLawful t := by
  constructor <;> simp [h, ResyncEngine.initial]

/-! ### Every event -/

theorem QueueLawful.event {s t : State} (ev : Event s t) (h : QueueLawful s) (windows : WindowsLawful s) :
    QueueLawful t := by
  cases ev
  case deliver src =>
    refine h.of_windows rfl fun e he => ?_
    rw [window_deliver]
    rcases receive_cases (s.window e.slot) { source := src, seq := (s.bu.count src).seq src } with same | ⟨-, -, got⟩
    · rw [same]
      exact ⟨h.in_service e he, h.not_dirty e he, rfl⟩
    · rw [got]
      exact ⟨h.in_service e he, h.not_dirty e he, rfl⟩
  case define k d free _ _ => exact h.setWindow_free free _
  case clear k life => exact h.setWindow_free (by simp [life, Lifecycle.inService]) _
  case swap k l _ new => exact h.setWindow (fun _ => new) rfl fun e he hk => hk ▸ h.not_dirty e he
  case mark k w life desc dirty _ =>
    exact h.setWindow (fun old => life ▸ old) desc fun e he hk => by rw [dirty, ← hk]; exact h.not_dirty e he
  case stage k seg _ free =>
    refine h.setWindow id rfl fun e he hk => ?_
    have other : e.seg ≠ seg := fun hs => free (hs ▸ hk ▸ he)
    have : seg.val ≠ e.seg.val := fun hv => other (Fin.ext hv.symm)
    have old := h.not_dirty e he
    rw [hk] at old
    show ((s.window k).dirty ||| BitVec.twoPow 32 seg.val).getLsbD e.seg.val = false
    rw [BitVec.getLsbD_or, old, BitVec.getLsbD_twoPow]
    simp [this]
  case enable k d life _ =>
    have free : (s.window k).life.inService = false := by simp [life, Lifecycle.inService]
    exact h.append rfl rfl (fun e he hk => absurd hk (h.no_entry free e he)) (.inl rfl) rfl rfl
  case abort k life => exact h.append rfl rfl (fun e he hk => hk ▸ h.not_dirty e he) life rfl rfl
  case flip k d seq _ _ may =>
    obtain ⟨life, none, -⟩ := mayFlip_iff.1 may
    refine h.append rfl rfl (fun e he hk => hk ▸ h.not_dirty e he) ?_ rfl rfl
    simp [Window.flipped, life]
  case disable k _ => exact h.purge rfl rfl
  case copyFails c e rest _ _ _ _ => exact h.withoutCopy.purge rfl rfl
  case park e _ queued _ => exact h.await queued rfl (by simp)
  case grant a n _ _ =>
    have hre := re_issue s a n
    split at hre
    · refine h.recopy hre (by simp) fun c hc => ?_
      obtain ⟨c', hc', rfl⟩ := Option.map_eq_some_iff.1 hc
      exact h.in_flight c' hc'
    · exact h.congr hre (by simp)
  case orphan => exact h.recopy (copy := s.re.copy) rfl rfl h.in_flight
  case advance c e rest word _ _ copy queue => exact h.advance copy queue rfl rfl
  case takeInFlight e rest _ queue =>
    refine h.recopy (orphaned := s.re.orphaned) rfl rfl fun c hc => ?_
    cases hc
    exact ⟨e, by simp [queue], segLenOf_pos windows e.slot⟩
  case softReset => exact .initial rfl
  case fullReset => exact .initial rfl
  all_goals exact h.congr (by simp) (by simp [State.freed])

end Sys2Proof.Machine
end

section
/-! SUPPORT. The laws of the ports and of the memory port (R59, R78, R80, R99, R102, R106), kept by every event. -/
namespace Sys2Proof.Machine

/-! ### One port -/

/-- The laws of one port's queue and service (R78, R80). -/
structure Port.Lawful (q : Port) : Prop where
  len      : q.queue.length ≤ 4
  held_off : q.offers ≠ [] → q.queue.length = 4
  busy     : q.service ≠ .idle → q.queue ≠ []

theorem PortsLawful.port {s : State} (h : PortsLawful s) (p : PortId) : (s.port p).Lawful := by
  cases p
  · exact ⟨h.hp_len, h.hp_held_off, h.hp_busy⟩
  · exact ⟨h.cp_len, h.cp_held_off, h.cp_busy⟩

/-- The laws of the ports are those of each port and of parking. -/
theorem PortsLawful.of_ports {s : State} (hp : s.hp.Lawful) (cp : s.cp.Lawful) (no_park : s.cp.service ≠ .parked)
    (park : s.hp.service = .parked → ∃ r ∈ s.hp.queue.head?, opIsWrite r.op = true)
    (awaited : s.re.awaited.isSome = true → s.hp.service = .parked) : PortsLawful s :=
  ⟨hp.len, cp.len, hp.held_off, cp.held_off, hp.busy, cp.busy, no_park, park, awaited⟩

theorem Port.Lawful.accepted {q : Port} (len : q.queue.length ≤ 4) (busy : q.service ≠ .idle → q.queue ≠ []) :
    q.acceptHeldOff.Lawful where
  len := acceptHeldOff_length_le len
  held_off h := Nat.le_antisymm (acceptHeldOff_length_le len) (acceptHeldOff_full h)
  busy h := fun no => busy h (List.prefix_nil.1 (no ▸ acceptHeldOff_prefix q))

theorem Port.Lawful.offered {q : Port} (h : q.Lawful) (r : Request) : (q.offered r).Lawful :=
  Port.Lawful.accepted (q := { q with offers := q.offers ++ [r] }) h.len h.busy

theorem Port.Lawful.dropHead {q : Port} (h : q.Lawful) : q.dropHead.Lawful :=
  Port.Lawful.accepted (q := { q with queue := q.queue.tail, service := .idle })
    (by rw [List.length_tail]; exact (Nat.sub_le ..).trans h.len) (absurd rfl)

theorem Port.lawful_emptied (q : Port) : q.emptied.Lawful :=
  Port.Lawful.accepted (q := { q with queue := [], service := .idle }) (Nat.zero_le _) (absurd rfl)

theorem Port.lawful_initial : Port.initial.Lawful := ⟨Nat.zero_le _, absurd rfl, absurd rfl⟩

theorem Port.Lawful.serving {q : Port} (h : q.Lawful) (head : q.queue ≠ []) (service : Service) :
    ({ q with service := service } : Port).Lawful := ⟨h.len, h.held_off, fun _ => head⟩

/-- The head of a busy queue stays as offers join behind it. -/
theorem head_offered {q : Port} (h : q.queue ≠ []) (r : Request) : (q.offered r).queue.head? = q.queue.head? := by
  obtain ⟨tail, e⟩ := acceptHeldOff_prefix { q with offers := q.offers ++ [r] }
  rw [Port.offered, ← e, List.head?_append_of_ne_nil _ h]

theorem granted_cases (q : Port) :
    (∃ t, q.service = .requesting t ∧ q.granted = { q with service := .awaiting t }) ∨
      ((∀ t, q.service ≠ .requesting t) ∧ q.granted = q) := by
  cases h : q.service with
  | requesting t => exact .inl ⟨t, rfl, by simp [Port.granted, h]⟩
  | _ => exact .inr ⟨by simp, by simp [Port.granted, h]⟩

theorem Port.Lawful.granted {q : Port} (h : q.Lawful) : q.granted.Lawful := by
  rcases granted_cases q with ⟨t, hs, e⟩ | ⟨-, e⟩ <;> rw [e]
  · exact h.serving (h.busy (by simp [hs])) _
  · exact h

/-! ### What an event leaves of the ports -/

theorem hp_issue (s : State) (a : Access) (n : Nat) : (s.issue a n).hp = if a.client = .hp then s.hp.granted else s.hp := by
  cases h : a.client <;> simp [State.issue, State.markGranted, h]

theorem cp_issue (s : State) (a : Access) (n : Nat) : (s.issue a n).cp = if a.client = .cp then s.cp.granted else s.cp := by
  cases h : a.client <;> simp [State.issue, State.markGranted, h]

theorem sw_issue (s : State) (a : Access) (n : Nat) :
    (s.issue a n).sw = if a.client = .sw then { s.sw with stage := .granted } else s.sw := by
  cases h : a.client <;> simp [State.issue, State.markGranted, h]

theorem PortsLawful.congr {s t : State} (h : PortsLawful s) (hp : t.hp = s.hp) (cp : t.cp = s.cp)
    (awaited : t.re.awaited.isSome = true → s.re.awaited.isSome = true) : PortsLawful t := by
  refine .of_ports (hp ▸ h.port .host) (cp ▸ h.port .consumer) (cp ▸ h.cp_no_park) (hp ▸ h.park_write) fun ha => ?_
  rw [hp]
  exact h.awaited_park (awaited ha)

theorem awaited_purge {re : ResyncEngine} {k : Slot} (h : (re.purge k).awaited.isSome = true) :
    re.awaited.isSome = true := by
  rw [(purge_purged re k).awaited] at h
  split at h
  · cases h
  · exact h

theorem awaited_advance {re : ResyncEngine} {c : Copy} {n : Nat} {w : Word}
    (h : (re.advance c n w).awaited.isSome = true) : re.awaited.isSome = true := by
  unfold ResyncEngine.advance at h
  split at h
  · exact h
  · split at h
    · exact h
    · unfold ResyncEngine.finish at h
      dsimp only at h
      split at h
      · cases h
      · exact h

/-- A port that may serve its head has nothing awaited: no entry may be while the host port is not parked on it. -/
theorem PortsLawful.ready_awaited {s : State} (h : PortsLawful s) (ready : s.Ready .host) : s.re.awaited.isSome = false := by
  rcases ready with idle | ⟨-, none⟩
  · refine Bool.eq_false_iff.2 fun some => ?_
    rw [port_host, h.awaited_park some] at idle
    cases idle
  · simp [none]

/-- Every event keeps the laws of the ports. -/
theorem PortsLawful.event {s t : State} (ev : Event s t) (h : PortsLawful s) : PortsLawful t := by
  cases ev
  case offer p r =>
    cases p
    · refine .of_ports ((h.port .host).offered r) (h.port .consumer) h.cp_no_park (fun hp => ?_) h.awaited_park
      have parked : s.hp.service = .parked := hp
      show ∃ w ∈ (s.hp.offered r).queue.head?, _
      rw [head_offered (h.hp_busy (by simp [parked]))]
      exact h.park_write parked
    · exact .of_ports (h.port .host) ((h.port .consumer).offered r) h.cp_no_park h.park_write h.awaited_park
  case answer p r ready =>
    cases p
    · refine .of_ports (h.port .host).dropHead (h.port .consumer) h.cp_no_park (nomatch ·) fun ha => ?_
      exact absurd (ha.symm.trans (h.ready_awaited ready)) (by decide)
    · exact .of_ports (h.port .host) (h.port .consumer).dropHead (nomatch ·) h.park_write h.awaited_park
  case request p t ready head =>
    cases p
    · refine .of_ports ((h.port .host).serving head _) (h.port .consumer) h.cp_no_park (nomatch ·) fun ha => ?_
      exact absurd (ha.symm.trans (h.ready_awaited ready)) (by decide)
    · exact .of_ports (h.port .host) ((h.port .consumer).serving head _) (nomatch ·) h.park_write h.awaited_park
  case park e ready queued head =>
    obtain ⟨r, hr, hw⟩ := head
    have nonempty : s.hp.queue ≠ [] := List.ne_nil_of_mem (List.mem_of_mem_head? hr)
    exact .of_ports ((h.port .host).serving nonempty _) (h.port .consumer) h.cp_no_park (fun _ => ⟨r, hr, hw⟩) fun _ => rfl
  case grant a n _ _ =>
    have awaited : (s.issue a n).re.awaited = s.re.awaited := by rw [re_issue]; split <;> rfl
    have hp := hp_issue s a n
    have cp := cp_issue s a n
    have hp_lawful : (s.issue a n).hp.Lawful := by rw [hp]; split; exacts [(h.port .host).granted, h.port .host]
    have cp_lawful : (s.issue a n).cp.Lawful := by rw [cp]; split; exacts [(h.port .consumer).granted, h.port .consumer]
    have service : ∀ q : Port, q.granted.service = .parked ↔ q.service = .parked := fun q => by
      rcases granted_cases q with ⟨t, hs, e⟩ | ⟨-, e⟩ <;> rw [e]
      simp [hs]
    have hp_park : (s.issue a n).hp.service = .parked ↔ s.hp.service = .parked := by
      rw [hp]; split
      · exact service _
      · rfl
    have cp_park : (s.issue a n).cp.service = .parked ↔ s.cp.service = .parked := by
      rw [cp]; split
      · exact service _
      · rfl
    have queue : (s.issue a n).hp.queue = s.hp.queue := by
      rw [hp]; split
      · rcases granted_cases s.hp with ⟨t, -, e⟩ | ⟨-, e⟩ <;> rw [e]
      · rfl
    exact .of_ports hp_lawful cp_lawful (mt cp_park.1 h.cp_no_park)
      (fun ha => queue ▸ h.park_write (hp_park.1 ha)) fun ha => hp_park.2 (h.awaited_park (awaited ▸ ha))
  case served p r _ awaits =>
    cases p
    · have none_parked : s.hp.service ≠ .parked := fun no => by simp [Port.isAwaiting, no] at awaits
      exact .of_ports (h.port .host).dropHead (h.port .consumer) h.cp_no_park (nomatch ·) fun ha =>
        absurd (h.awaited_park ha) none_parked
    · exact .of_ports (h.port .host) (h.port .consumer).dropHead (nomatch ·) h.park_write h.awaited_park
  case disable k _ => exact h.congr rfl rfl awaited_purge
  case copyFails c e rest _ _ _ _ => exact h.congr rfl rfl awaited_purge
  case advance c e rest word _ _ _ _ => exact h.congr rfl rfl awaited_advance
  case softReset =>
    exact .of_ports s.hp.lawful_emptied s.cp.lawful_emptied (nomatch ·) (nomatch ·) (nomatch ·)
  case fullReset =>
    exact .of_ports Port.lawful_initial Port.lawful_initial (nomatch ·) (nomatch ·) (nomatch ·)
  case flip => exact h.congr rfl rfl id
  all_goals exact h.congr (by simp [State.freed]) (by simp [State.freed]) (by simp)

/-! ### One access out (R99, R103) -/

@[simp] theorem isAwaiting_mk (queue offers : List Request) (service : Service) :
    (⟨queue, service, offers⟩ : Port).isAwaiting = (match service with | .awaiting _ => true | _ => false) := rfl

theorem isAwaiting_iff {q : Port} : q.isAwaiting = true ↔ ∃ t, q.service = .awaiting t := by
  cases h : q.service <;> simp [Port.isAwaiting, h]

theorem isAwaiting_congr {q r : Port} (h : q.service = r.service) : q.isAwaiting = r.isAwaiting := by
  simp [Port.isAwaiting, h]

theorem not_awaiting_of_ready {s : State} {p : PortId} (h : s.Ready p) : (s.port p).isAwaiting = false := by
  rcases h with idle | ⟨parked, -⟩ <;> simp [Port.isAwaiting, *]

/-- The clients whose access is not out (R99). -/
theorem MemoryLawful.not_out {s : State} (h : MemoryLawful s) {out : Option Client} (ho : s.clientOut = out) :
    (out ≠ some .hp → s.hp.isAwaiting = false) ∧ (out ≠ some .cp → s.cp.isAwaiting = false) ∧
      (out ≠ some .re → s.re.accessOut = false) ∧ (out ≠ some .sw → s.sw.accessOut = false) := by
  rw [h.hp_out, h.cp_out, h.re_out, h.sw_out, ho]
  simp

/-- The memory port is left alone, and so is whether each client's access is out. -/
theorem MemoryLawful.of_same_out {s t : State} (h : MemoryLawful s) (mp : t.mp = s.mp)
    (hp : t.hp.isAwaiting = s.hp.isAwaiting) (cp : t.cp.isAwaiting = s.cp.isAwaiting)
    (re : t.re.accessOut = s.re.accessOut) (sw : t.sw.accessOut = s.sw.accessOut)
    (re_one : t.re.orphaned = true → ∀ c ∈ t.re.copy, c.stage = .requested)
    (sw_one : t.sw.discarded = true → t.sw.stage = .requested) : MemoryLawful t := by
  have out : t.clientOut = s.clientOut := by rw [State.clientOut, mp, State.clientOut]
  constructor
  · rw [hp, out]; exact h.hp_out
  · rw [cp, out]; exact h.cp_out
  · rw [re, out]; exact h.re_out
  · rw [sw, out]; exact h.sw_out
  · exact re_one
  · exact sw_one
  · rw [mp]; exact h.passover_le
  · rw [mp]; exact h.clocks_lt
  · rw [mp]; exact h.timeout_in

/-- No client's block is touched in its access. -/
theorem MemoryLawful.congr {s t : State} (h : MemoryLawful s) (mp : t.mp = s.mp) (hp : t.hp.service = s.hp.service)
    (cp : t.cp.service = s.cp.service) (copy : t.re.copy = s.re.copy) (orphaned : t.re.orphaned = s.re.orphaned)
    (sw : t.sw = s.sw) : MemoryLawful t :=
  h.of_same_out mp (isAwaiting_congr hp) (isAwaiting_congr cp)
    (by simp [ResyncEngine.accessOut, copy, orphaned]) (sw ▸ rfl) (copy ▸ orphaned ▸ h.re_one) (sw ▸ h.sw_one)

/-- No access is out. -/
theorem MemoryLawful.of_free {t : State} (free : t.mp.awaiting = none) (hp : t.hp.isAwaiting = false)
    (cp : t.cp.isAwaiting = false) (re : t.re.accessOut = false) (sw : t.sw.accessOut = false)
    (passover : t.mp.passover ≤ 16) (timeout : ∀ k ∈ t.mp.timeout, 4 ≤ k ∧ k ≤ 15) : MemoryLawful t where
  hp_out := by simp [State.clientOut, free, hp]
  cp_out := by simp [State.clientOut, free, cp]
  re_out := by simp [State.clientOut, free, re]
  sw_out := by simp [State.clientOut, free, sw]
  re_one h := by simp [ResyncEngine.accessOut, h] at re
  sw_one h := by simp [StampWriter.accessOut, h] at sw
  passover_le := passover
  clocks_lt := by simp [free]
  timeout_in := timeout

/-! ### The stamp writer's access (R112 to R119) -/

/-- A record that joins leaves the writer's access as it was. -/
theorem accessOut_withRecord (sw : StampWriter) (r : StampRecord) : (sw.withRecord r).accessOut = sw.accessOut := by
  by_cases h : sw.queue = []
  · simp [StampWriter.accessOut, StampWriter.withRecord, h]
  · have before : sw.queue.isEmpty = false := by simpa using h
    have after : (sw.queue ++ [r]).isEmpty = false := by simp
    simp [StampWriter.accessOut, StampWriter.withRecord, h, before, after]

theorem stage_withRecord {sw : StampWriter} (r : StampRecord) (h : sw.stage = .requested) :
    (sw.withRecord r).stage = .requested := by
  simp [StampWriter.withRecord, h]

/-- A record that is removed leaves its granted write out, as the discarded access (R118). -/
theorem accessOut_remove (sw : StampWriter) (k : Slot) : (sw.remove k).accessOut = sw.accessOut := by
  have removed := remove_removed sw k
  cases hq : sw.queue with
  | nil =>
    obtain ⟨step, stage, discarded⟩ := removed.other (by simp [hq])
    simp [StampWriter.accessOut, removed.queue, discarded, hq]
  | cons r rest =>
    by_cases hk : r.slot = k
    · obtain ⟨step, stage, discarded⟩ := removed.head r (by simp [hq]) hk
      rw [Bool.eq_iff_iff]
      simp [StampWriter.accessOut, stage, discarded, hq]
    · obtain ⟨step, stage, discarded⟩ := removed.other (by simp [hq, hk])
      simp [StampWriter.accessOut, removed.queue, stage, discarded, hq, hk]

theorem stage_remove {sw : StampWriter} {k : Slot} (h : sw.discarded = true → sw.stage = .requested)
    (hd : (sw.remove k).discarded = true) : (sw.remove k).stage = .requested := by
  have removed := remove_removed sw k
  by_cases hk : ∃ r ∈ sw.queue.head?, r.slot = k
  · obtain ⟨r, hr, hk⟩ := hk
    exact (removed.head r hr hk).2.1
  · push Not at hk
    obtain ⟨-, stage, discarded⟩ := removed.other hk
    exact stage.trans (h (discarded ▸ hd))

/-- An answer to a write that is out leaves none out. -/
theorem accessOut_answer {sw : StampWriter} (one : sw.discarded = true → sw.stage = .requested)
    (waits : sw.discarded = true ∨ sw.queue ≠ []) (ans : ClientAnswer) : (sw.answer ans).accessOut = false := by
  rcases stampAnswer_cases sw ans with ⟨hd, e⟩ | ⟨hd, hq, -⟩ | ⟨hd, -, -, -, e⟩ | ⟨hd, -, -, e⟩
  · simp [e, StampWriter.accessOut, one hd]
  · simp [hd, hq] at waits
  · simp [e, StampWriter.accessOut, hd]
  · simp [e, StampWriter.accessOut, StampWriter.withoutHead, hd]

/-! ### The resync engine's access (R59, R69) -/

/-- A purge leaves a granted access out, as the orphan (R68). -/
theorem accessOut_purge (re : ResyncEngine) (k : Slot) : (re.purge k).accessOut = re.accessOut := by
  have purged := purge_purged re k
  by_cases mine : ∃ e ∈ re.inFlight, e.slot = k
  · obtain ⟨e, he, hk⟩ := mine
    obtain ⟨copy, orphaned⟩ := purged.mine e he hk
    rw [Bool.eq_iff_iff]
    simp [ResyncEngine.accessOut, copy, orphaned, Option.any_eq_true]
  · push Not at mine
    obtain ⟨copy, orphaned⟩ := purged.other mine
    simp [ResyncEngine.accessOut, copy, orphaned]

theorem purge_one {re : ResyncEngine} {k : Slot} (h : re.orphaned = true → ∀ c ∈ re.copy, c.stage = .requested)
    (ho : (re.purge k).orphaned = true) : ∀ c ∈ (re.purge k).copy, c.stage = .requested := by
  intro c hc
  obtain ⟨copy, orphaned, -⟩ := copy_purge hc
  exact h (orphaned ▸ ho) c copy

theorem accessOut_advance {re : ResyncEngine} (own : re.orphaned = false) (c : Copy) (n : Nat) (w : Word) :
    (re.advance c n w).accessOut = false := by
  unfold ResyncEngine.advance
  split
  · simp [ResyncEngine.accessOut, own]
  · split <;> simp [ResyncEngine.accessOut, ResyncEngine.finish, own]

/-! ### Every event -/

/-- A grant of a free memory port marks the client whose access goes out, and no other (R103). -/
theorem MemoryLawful.grant {s : State} {a : Access} {n : Nat} (h : MemoryLawful s) (free : s.mp.awaiting = none)
    (choice : s.grantChoice = some (a, n)) : MemoryLawful (s.issue a n) := by
  obtain ⟨hp, cp, re, sw⟩ := h.not_out (out := none) (by simp [State.clientOut, free])
  replace hp := hp (by simp)
  replace cp := cp (by simp)
  replace re := re (by simp)
  replace sw := sw (by simp)
  obtain ⟨own_re, -⟩ : s.re.orphaned = false ∧ _ := by simpa [ResyncEngine.accessOut] using re
  obtain ⟨own_sw, -⟩ : s.sw.discarded = false ∧ _ := by simpa [StampWriter.accessOut] using sw
  have out : (s.issue a n).clientOut = some a.client := rfl
  have orphaned : (s.issue a n).re.orphaned = false := by rw [re_issue]; split <;> exact own_re
  have discarded : (s.issue a n).sw.discarded = false := by rw [sw_issue]; split <;> exact own_sw
  have granted : ∀ {c q}, portRequest c q = some a → q.granted.isAwaiting = true := by
    intro c q hreq
    obtain ⟨t, r, hs, -⟩ := portRequest_iff.1 hreq
    simp [Port.isAwaiting, Port.granted, hs]
  have chosen := grantChoice_cases choice
  constructor
  · rw [hp_issue, out]
    split
    · rename_i hc
      simp [hc] at chosen
      simp [hc, granted chosen]
    · rename_i hc
      simp [hc, hp]
  · rw [cp_issue, out]
    split
    · rename_i hc
      simp [hc] at chosen
      simp [hc, granted chosen]
    · rename_i hc
      simp [hc, cp]
  · rw [out]
    by_cases hc : a.client = .re
    · simp [hc] at chosen
      obtain ⟨c, e, d, copy, -⟩ := copyRequest_iff.1 chosen
      simp [re_issue, hc, ResyncEngine.accessOut, copy]
    · simp [re_issue, hc, re]
  · rw [out]
    by_cases hc : a.client = .sw
    · simp [hc] at chosen
      obtain ⟨r, head, -⟩ := stampAccess_iff.1 chosen
      have nonempty : s.sw.queue ≠ [] := List.ne_nil_of_mem (List.mem_of_mem_head? head)
      simp [sw_issue, hc, StampWriter.accessOut, nonempty]
    · simp [sw_issue, hc, sw]
  · exact fun no => absurd (orphaned.symm.trans no) (by decide)
  · exact fun no => absurd (discarded.symm.trans no) (by decide)
  · exact arbitrate_passover h.passover_le choice
  · intro x hx l hl
    have hx' : some { access := a, tag := s.mp.tag, limit := s.mp.timeout.map (2 ^ ·), clocks := 0 } = some x := hx
    cases hx'
    obtain ⟨k, -, rfl⟩ := Option.map_eq_some_iff.1 hl
    exact Nat.two_pow_pos k
  · exact h.timeout_in

/-- Under the laws the client of the access that is out has something for the answer to go to. -/
theorem MemoryLawful.not_deaf {s : State} (h : MemoryLawful s) (queue : QueueLawful s) (ports : PortsLawful s)
    {c : Client} (out : s.clientOut = some c) : ¬ s.Deaf c := by
  intro deaf
  cases c with
  | hp =>
    have awaits : s.hp.isAwaiting = true := by simp [h.hp_out, out]
    obtain ⟨t, ht⟩ := isAwaiting_iff.1 awaits
    exact deaf.elim (fun no => absurd (awaits.symm.trans no) (by decide)) (ports.hp_busy (by simp [ht]))
  | cp =>
    have awaits : s.cp.isAwaiting = true := by simp [h.cp_out, out]
    obtain ⟨t, ht⟩ := isAwaiting_iff.1 awaits
    exact deaf.elim (fun no => absurd (awaits.symm.trans no) (by decide)) (ports.cp_busy (by simp [ht]))
  | re =>
    obtain ⟨own, nothing⟩ := deaf
    have granted : s.re.copy.any (·.stage = Stage.granted) = true := by
      simpa [ResyncEngine.accessOut, own, out] using h.re_out
    obtain ⟨c, copy, -⟩ := (Option.any_eq_true ..).1 granted
    obtain ⟨e, head, -⟩ := queue.in_flight c copy
    rcases nothing with none | empty
    · cases none.symm.trans copy
    · simp [empty] at head
  | sw =>
    obtain ⟨own, empty⟩ := deaf
    simpa [StampWriter.accessOut, own, empty, out] using h.sw_out

/-- Every event keeps the laws of the memory port. -/
theorem MemoryLawful.event {s t : State} (ev : Event s t) (h : MemoryLawful s) (queue : QueueLawful s)
    (ports : PortsLawful s) : MemoryLawful t := by
  cases ev
  case timeout x range => exact { h with timeout_in := range }
  case clocked a out early =>
    have hout : s.clientOut = some a.access.client := by simp [State.clientOut, out]
    exact {
      hp_out := h.hp_out.trans (by rw [hout]; rfl)
      cp_out := h.cp_out.trans (by rw [hout]; rfl)
      re_out := h.re_out.trans (by rw [hout]; rfl)
      sw_out := h.sw_out.trans (by rw [hout]; rfl)
      re_one := h.re_one
      sw_one := h.sw_one
      passover_le := h.passover_le
      clocks_lt := fun b hb => by cases hb; exact early
      timeout_in := h.timeout_in }
  case offer p r => cases p <;> exact h.congr rfl rfl rfl rfl rfl rfl
  case answer p r ready =>
    have before := not_awaiting_of_ready ready
    cases p
    · exact h.of_same_out rfl before.symm rfl rfl rfl h.re_one h.sw_one
    · exact h.of_same_out rfl rfl before.symm rfl rfl h.re_one h.sw_one
  case request p t ready _ =>
    have before := not_awaiting_of_ready ready
    cases p
    · exact h.of_same_out rfl before.symm rfl rfl rfl h.re_one h.sw_one
    · exact h.of_same_out rfl rfl before.symm rfl rfl h.re_one h.sw_one
  case park e ready _ _ =>
    have before := not_awaiting_of_ready ready
    exact h.of_same_out rfl before.symm rfl rfl rfl h.re_one h.sw_one
  case grant a n free choice => exact h.grant free choice
  case stray c out deaf => exact absurd deaf (h.not_deaf queue ports out)
  case served p r out awaits =>
    obtain ⟨hp, cp, re, sw⟩ := h.not_out out
    cases p
    · exact .of_free rfl rfl (cp (by simp [portClient])) (re (by simp [portClient])) (sw (by simp [portClient]))
        h.passover_le h.timeout_in
    · exact .of_free rfl (hp (by simp [portClient])) rfl (re (by simp [portClient])) (sw (by simp [portClient]))
        h.passover_le h.timeout_in
  case orphan out orphaned =>
    obtain ⟨hp, cp, -, sw⟩ := h.not_out out
    have requested : ∀ c ∈ s.re.copy, c.stage = .requested := h.re_one orphaned
    have re : s.re.copy.any (·.stage = Stage.granted) = false := by
      cases hc : s.re.copy with
      | none => rfl
      | some c => simp [requested c hc]
    exact .of_free rfl (hp (by simp)) (cp (by simp)) (by simpa [ResyncEngine.accessOut] using re) (sw (by simp))
      h.passover_le h.timeout_in
  case advance c e rest word out own _ _ =>
    obtain ⟨hp, cp, -, sw⟩ := h.not_out out
    exact .of_free rfl (hp (by simp)) (cp (by simp)) (accessOut_advance own c _ word) (sw (by simp))
      h.passover_le h.timeout_in
  case copyFails c e rest out own _ _ =>
    obtain ⟨hp, cp, -, sw⟩ := h.not_out out
    refine .of_free rfl (hp (by simp)) (cp (by simp)) ?_ (sw (by simp)) h.passover_le h.timeout_in
    exact (accessOut_purge _ _).trans (by simp [ResyncEngine.accessOut, own])
  case stamped ans out waits =>
    obtain ⟨hp, cp, re, -⟩ := h.not_out out
    exact .of_free rfl (hp (by simp)) (cp (by simp)) (re (by simp)) (accessOut_answer h.sw_one waits ans)
      h.passover_le h.timeout_in
  case takeInFlight e rest idle _ =>
    refine h.of_same_out rfl rfl rfl (by simp [ResyncEngine.accessOut, idle]) rfl (fun _ c hc => ?_) h.sw_one
    cases hc
    rfl
  case enable k d _ _ =>
    cases hd : d.stampAddr with
    | none => exact h.congr rfl rfl rfl rfl rfl (by simp)
    | some a =>
      have sw := append_withRecord s.sw (enableRecord s k (s.window k) d a)
      refine h.of_same_out rfl rfl rfl rfl ?_ h.re_one fun hdis => ?_
      · simp [sw, accessOut_withRecord]
      · simp only [sw] at hdis ⊢
        exact stage_withRecord _ (h.sw_one hdis)
  case flip k d seq _ _ _ =>
    cases hd : d.stampAddr with
    | none => exact h.congr rfl rfl rfl rfl rfl (by simp [State.flip, hd])
    | some a =>
      have sw := append_withRecord s.sw (flipRecord k (s.window k) d a seq)
      refine h.of_same_out rfl rfl rfl rfl ?_ h.re_one fun hdis => ?_
      · simp [State.flip, sw, hd, accessOut_withRecord]
      · simp only [State.flip, hd, sw] at hdis ⊢
        exact stage_withRecord _ (h.sw_one hdis)
  case disable k _ =>
    exact h.of_same_out rfl rfl rfl (accessOut_purge s.re k) (accessOut_remove s.sw k) (purge_one h.re_one)
      (stage_remove h.sw_one)
  case softReset => exact .of_free rfl rfl rfl rfl rfl (Nat.zero_le _) h.timeout_in
  case fullReset =>
    exact .of_free rfl rfl rfl rfl rfl (Nat.zero_le _)
      (by simp [State.fullReset, State.reset, MemoryPort.initial, Config.resetTimeout])
  all_goals exact h.congr rfl rfl rfl rfl rfl rfl

end Sys2Proof.Machine
end

section
/-! SUPPORT. The remaining laws, kept by every event: the boundary sources (R124, R132, R135, R143), the ties of the view
table (R143), the fault list (R156) and the stamp queue (R112, R113); and the statements that every step keeps them. -/
namespace Sys2Proof.Machine

/-! ### Timer, filters and watch -/

theorem Filter.lawful_initial {depth : Nat} (h : depth = 1 ∨ depth = 4 ∨ depth = 8 ∨ depth = 16) :
    (Filter.initial depth).Lawful :=
  ⟨Nat.one_pos, Nat.zero_le _, h, by rcases h with h | h | h | h <;> simp [Filter.initial, h]⟩

theorem PeriodTimer.lawful_initial : PeriodTimer.initial.Lawful :=
  PeriodTimer.lawful_of_zero rfl rfl rfl (Nat.zero_le _) (by decide) rfl

theorem Watch.lawful_initial : Watch.initial.Lawful := by
  constructor <;> simp [Watch.initial, Config.resetWatchMax]

theorem boundaryLawful_reset : BoundaryLawful State.reset :=
  ⟨PeriodTimer.lawful_initial, Filter.lawful_initial (.inl rfl), Watch.lawful_initial, Filter.lawful_initial (.inr (.inl rfl))⟩

theorem BoundaryLawful.congr {s t : State} (h : BoundaryLawful s) (pt : t.bu.pt = s.bu.pt) (line : t.bu.line = s.bu.line)
    (watch : t.bu.watch = s.bu.watch) (filter : t.tu.filter = s.tu.filter) : BoundaryLawful t :=
  ⟨pt ▸ h.timer, line ▸ h.line, watch ▸ h.watch, filter ▸ h.trip⟩

@[simp] theorem pt_count (bu : BoundaryUnit) (src : Source) : (bu.count src).pt = bu.pt := by cases src <;> rfl
@[simp] theorem line_count (bu : BoundaryUnit) (src : Source) : (bu.count src).line = bu.line := by cases src <;> rfl
@[simp] theorem watch_count (bu : BoundaryUnit) (src : Source) : (bu.count src).watch = bu.watch := by cases src <;> rfl

@[simp] theorem filter_toLive (tu : TripUnit) (k : Slot) : (tu.toLive k).filter = tu.filter :=
  (toLive_backToLive tu k).line.2

/-- Every event keeps the laws of the boundary sources. -/
theorem BoundaryLawful.event {s t : State} (ev : Event s t) (h : BoundaryLawful s) : BoundaryLawful t := by
  cases ev
  case sources bu timer line watch => exact ⟨timer h.timer, line h.line, watch h.watch, h.trip⟩
  case tripLine f lineTrip filter => exact ⟨h.timer, h.line, h.watch, filter h.trip⟩
  case release => exact h.congr rfl rfl rfl (filter_release s.tu)
  case softReset => exact ⟨h.timer.stop, h.line.cleared .low, h.watch.restart, h.trip.cleared .low⟩
  case fullReset => exact boundaryLawful_reset.congr rfl rfl rfl rfl
  case offer p r => cases p <;> exact h.congr rfl rfl rfl rfl
  case enable | flip | trip => exact h.congr rfl rfl rfl rfl
  all_goals exact h.congr (by simp [State.freed]) (by simp [State.freed]) (by simp [State.freed]) (by simp [State.freed])

/-! ### The view table (R143) -/

theorem ViewsLawful.congr {s t : State} (h : ViewsLawful s) (entry : ∀ k, t.tu.entry k = s.tu.entry k)
    (state : t.tu.state = s.tu.state) (reason : t.tu.reason = s.tu.reason)
    (guarded : ∀ k, (t.window k).guarded = (s.window k).guarded) : ViewsLawful t := by
  constructor <;> simp only [entry, state, reason, guarded]
  · exact h.unguarded
  · exact h.normal
  · exact h.tripped
  · exact h.restoring

theorem ViewEntry.eq_initial {v : ViewEntry} (view : v.view ≠ .safe) (pending : v.restorePending = false) :
    v = .initial := by
  obtain ⟨view', pending'⟩ := v
  cases view' with
  | live => rw [ViewEntry.initial, ViewEntry.mk.injEq]; exact ⟨rfl, pending⟩
  | safe => exact absurd rfl view

theorem guarded_congr {v w : Window} (life : v.life.inService = w.life.inService) (desc : v.desc = w.desc) :
    v.guarded = w.guarded := by simp [Window.guarded, life, desc]

/-- A record replaced by one that is guarded exactly when the old one was. -/
theorem ViewsLawful.record {s t : State} {k : Slot} {w : Window} (h : ViewsLawful s) (tu : t.tu = s.tu)
    (windows : t.windows = (s.setWindow k w).windows) (same : w.guarded = (s.window k).guarded) : ViewsLawful t := by
  refine h.congr (fun _ => tu ▸ rfl) (tu ▸ rfl) (tu ▸ rfl) fun j => ?_
  rw [window_congr windows, window_setWindow]
  split
  · rename_i hj
    exact hj ▸ same
  · rfl

/-- The entry ENABLE gives a window, by the trip state (R150). -/
theorem enableEntry_unprotected (tu : TripUnit) : tu.enableEntry false = .initial := rfl

theorem enableEntry_normal {tu : TripUnit} (h : tu.state = .normal) (p : Bool) : tu.enableEntry p = .initial := by
  cases p <;> simp [TripUnit.enableEntry, h, ViewEntry.initial]

theorem enableEntry_tripped {tu : TripUnit} (h : tu.state = .tripped) :
    tu.enableEntry true = { view := .safe, restorePending := false } := by simp [TripUnit.enableEntry, h]

theorem enableEntry_restoring {tu : TripUnit} (h : tu.state = .restoring) :
    tu.enableEntry true = { view := .safe, restorePending := true } := by simp [TripUnit.enableEntry, h]

/-- A window put into service gets the view that the trip state gives it (R150). -/
theorem ViewsLawful.enable {s t : State} {k : Slot} {p : Bool} (h : ViewsLawful s)
    (before : (s.window k).guarded = false) (tu : t.tu = s.tu.setEntry k (s.tu.enableEntry p))
    (after : (t.window k).guarded = p) (others : ∀ j, j ≠ k → (t.window j).guarded = (s.window j).guarded) :
    ViewsLawful t := by
  have entry : ∀ j, t.tu.entry j = if j = k then s.tu.enableEntry p else s.tu.entry j := fun j => by
    rw [tu, entry_setEntry]
  have state : t.tu.state = s.tu.state := by rw [tu]; rfl
  have reason : t.tu.reason = s.tu.reason := by rw [tu]; rfl
  constructor
  · intro j hg
    rw [entry]
    split
    · rename_i hj
      obtain rfl : p = false := after.symm.trans (hj ▸ hg)
      exact enableEntry_unprotected _
    · rename_i hj
      exact h.unguarded j (others j hj ▸ hg)
  · intro hs
    rw [state] at hs
    obtain ⟨none, initial⟩ := h.normal hs
    refine ⟨reason ▸ none, fun j => ?_⟩
    rw [entry, enableEntry_normal hs]
    split
    · rfl
    · exact initial j
  · intro hs
    rw [state] at hs
    obtain ⟨some, pending, safe⟩ := h.tripped hs
    refine ⟨reason ▸ some, fun j => ?_, fun j hg => ?_⟩ <;> rw [entry] <;> split
    · cases p
      · rfl
      · rw [enableEntry_tripped hs]
    · exact pending j
    · rename_i hj
      obtain rfl : p = true := after.symm.trans (hj ▸ hg)
      rw [enableEntry_tripped hs]
    · rename_i hj
      exact safe j (others j hj ▸ hg)
  · intro hs
    rw [state] at hs
    obtain ⟨some, iff, i, hi⟩ := h.restoring hs
    refine ⟨reason ▸ some, fun j => ?_, i, ?_⟩ <;> rw [entry]
    · split
      · cases p
        · simp [enableEntry_unprotected, ViewEntry.initial]
        · simp [enableEntry_restoring hs]
      · exact iff j
    · rw [if_neg]
      · exact hi
      · rintro rfl
        simp [h.unguarded i before, ViewEntry.initial] at hi

/-- An entry goes back to LIVE: of a window taken out of service, or outside TRIPPED (R149, R151). -/
theorem ViewsLawful.toLive {s t : State} {k : Slot} (h : ViewsLawful s) (tu : t.tu = s.tu.toLive k)
    (own : (t.window k).guarded = false ∨ s.tu.state ≠ .tripped)
    (others : ∀ j, j ≠ k → (t.window j).guarded = (s.window j).guarded) : ViewsLawful t := by
  have entry : ∀ j, t.tu.entry j = if j = k then .initial else s.tu.entry j := fun j => by
    rw [tu]; exact (toLive_backToLive s.tu k).entries j
  have unguarded : ∀ j, (t.window j).guarded = false → t.tu.entry j = .initial := fun j hg => by
    rw [entry]
    split
    · rfl
    · rename_i hj
      exact h.unguarded j (others j hj ▸ hg)
  rcases endRestoring_cases (s.tu.setEntry k .initial) with ⟨hs, done, e⟩ | ⟨more, e⟩
  · have hs : s.tu.state = .restoring := hs
    have ended : t.tu.state = .normal ∧ t.tu.reason = none := by rw [tu, TripUnit.toLive, e]; exact ⟨rfl, rfl⟩
    have initial : ∀ j, t.tu.entry j = .initial := fun j => by
      rw [entry]
      split
      · rfl
      · rename_i hj
        have pending : (s.tu.entry j).restorePending = false := by simpa [entry_setEntry, hj] using done j
        refine ViewEntry.eq_initial (fun safe => ?_) pending
        exact absurd (((h.restoring hs).2.1 j).2 safe) (by simp [pending])
    exact ⟨unguarded, fun _ => ⟨ended.2, initial⟩, fun no => (nomatch ended.1.symm.trans no),
      fun no => (nomatch ended.1.symm.trans no)⟩
  · have state : t.tu.state = s.tu.state := by rw [tu, TripUnit.toLive, e]; rfl
    have reason : t.tu.reason = s.tu.reason := by rw [tu, TripUnit.toLive, e]; rfl
    refine ⟨unguarded, fun hs => ?_, fun hs => ?_, fun hs => ?_⟩ <;> rw [state] at hs <;> rw [reason]
    · obtain ⟨none, initial⟩ := h.normal hs
      refine ⟨none, fun j => ?_⟩
      rw [entry]
      split
      · rfl
      · exact initial j
    · obtain ⟨some, pending, safe⟩ := h.tripped hs
      refine ⟨some, fun j => ?_, fun j hg => ?_⟩ <;> rw [entry] <;> split
      · rfl
      · exact pending j
      · rename_i hj
        exact absurd hs (own.resolve_left (by rw [← hj, hg]; decide))
      · rename_i hj
        exact safe j (others j hj ▸ hg)
    · obtain ⟨some, iff, -⟩ := h.restoring hs
      refine ⟨some, fun j => ?_, ?_⟩
      · rw [entry]
        split
        · simp [ViewEntry.initial]
        · exact iff j
      · by_contra no
        refine more ⟨hs, fun j => ?_⟩
        have same : (s.tu.setEntry k .initial).entry j = t.tu.entry j := by rw [entry, entry_setEntry]
        rw [same]
        exact Bool.eq_false_iff.2 fun yes => no ⟨j, yes⟩

/-- A trip makes every guarded window SAFE with nothing pending (R147). -/
theorem ViewsLawful.trip {s t : State} {r : TripReason} (h : ViewsLawful s)
    (tu : t.tu = s.tu.trip r fun k => (s.window k).guarded) (windows : t.windows = s.windows) : ViewsLawful t := by
  have entry : ∀ j, t.tu.entry j = if (s.window j).guarded then { view := .safe, restorePending := false } else .initial := by
    intro j
    rw [tu, entry_trip]
    split
    · rfl
    · exact h.unguarded j (Bool.eq_false_iff.2 ‹_›)
  have state : t.tu.state = .tripped := by rw [tu]; rfl
  refine ⟨fun j hg => ?_, fun no => (nomatch state.symm.trans no), fun _ => ⟨by rw [tu]; rfl, fun j => ?_, fun j hg => ?_⟩,
    fun no => (nomatch state.symm.trans no)⟩ <;> rw [entry]
  · rw [window_congr windows] at hg
    simp [hg]
  · split <;> rfl
  · rw [window_congr windows] at hg
    simp [hg]

/-- A release gives every SAFE entry restore pending, or ends the trip when there is none (R148). -/
theorem ViewsLawful.release {s t : State} (h : ViewsLawful s) (hs : s.tu.state = .tripped) (tu : t.tu = s.tu.release)
    (windows : t.windows = s.windows) : ViewsLawful t := by
  obtain ⟨some, pending, -⟩ := h.tripped hs
  have view : ∀ j, (t.tu.entry j).view = (s.tu.entry j).view := fun j => by rw [tu, view_entry_release]
  have restores : ∀ j, (t.tu.entry j).restorePending = true ↔ (s.tu.entry j).view = .safe := fun j => by
    rw [tu, restorePending_entry_release, pending j]
    simp
  have unguarded : ∀ j, (t.window j).guarded = false → t.tu.entry j = .initial := fun j hg => by
    have initial := h.unguarded j (window_congr windows j ▸ hg)
    rw [tu, entry_release, initial]
    rfl
  by_cases safe : ∃ k, (s.tu.entry k).view = .safe
  · have state : t.tu.state = .restoring := by rw [tu, release_of_safe safe]
    have reason : t.tu.reason = s.tu.reason := by rw [tu, release_of_safe safe]
    obtain ⟨k, hk⟩ := safe
    exact ⟨unguarded, fun no => (nomatch state.symm.trans no), fun no => (nomatch state.symm.trans no),
      fun _ => ⟨reason ▸ some, fun j => view j ▸ restores j, k, (restores k).2 hk⟩⟩
  · have ended : t.tu.state = .normal ∧ t.tu.reason = none := by rw [tu, release_of_no_safe safe]; exact ⟨rfl, rfl⟩
    have initial : ∀ j, t.tu.entry j = .initial := fun j => by
      refine ViewEntry.eq_initial (fun no => safe ⟨j, view j ▸ no⟩) (Bool.eq_false_iff.2 fun no => ?_)
      exact safe ⟨j, (restores j).1 no⟩
    exact ⟨unguarded, fun _ => ⟨ended.2, initial⟩, fun no => (nomatch ended.1.symm.trans no),
      fun no => (nomatch ended.1.symm.trans no)⟩

/-- NORMAL with every entry LIVE. -/
theorem ViewsLawful.all_initial {t : State} (state : t.tu.state = .normal) (reason : t.tu.reason = none)
    (entry : ∀ k, t.tu.entry k = .initial) : ViewsLawful t :=
  ⟨fun k _ => entry k, fun _ => ⟨reason, entry⟩, fun no => (nomatch state.symm.trans no),
    fun no => (nomatch state.symm.trans no)⟩

theorem guarded_receive (w : Window) (b : Boundary) : (w.receive b).guarded = w.guarded := by
  unfold Window.receive; split <;> rfl

/-- Every event keeps the ties between the trip state and the view table. -/
theorem ViewsLawful.event {s t : State} (ev : Event s t) (h : ViewsLawful s) (queue : QueueLawful s) :
    ViewsLawful t := by
  have out_of_service : ∀ {w : Window}, w.life.inService = false → w.guarded = false := fun hw => by
    simp [Window.guarded, hw]
  have in_service : ∀ {l : Lifecycle}, l = .active ∨ l = .held → l.inService = true := fun hl => by
    rcases hl with rfl | rfl <;> rfl
  cases ev
  case deliver src => exact h.congr (fun _ => rfl) rfl rfl fun k => by rw [window_deliver, guarded_receive]
  case define k d free _ _ => exact h.record rfl rfl ((out_of_service rfl).trans (out_of_service free).symm)
  case clear k life =>
    exact h.record rfl rfl ((out_of_service rfl).trans (out_of_service (by simp [life, Lifecycle.inService])).symm)
  case swap k l old new => exact h.record rfl rfl (guarded_congr ((in_service new).trans (in_service old).symm) rfl)
  case mark k w life desc _ _ => exact h.record rfl rfl (guarded_congr (life ▸ rfl) desc)
  case stage k seg _ _ => exact h.record rfl rfl rfl
  case abort k _ => exact h.record rfl rfl rfl
  case flip k d seq _ _ may =>
    refine h.record rfl rfl (guarded_congr ?_ rfl)
    simp only [Window.flipped, (mayFlip_iff.1 may).1]
    split <;> rfl
  case copyFails c e rest _ _ _ hq =>
    exact h.record rfl rfl (guarded_congr (in_service (queue.head_in_service hq)).symm rfl)
  case enable k d life desc =>
    refine h.enable (out_of_service (by simp [life, Lifecycle.inService])) rfl ?_ fun j hj => ?_
    · show ((s.setWindow k _).window k).guarded = _
      rw [window_setWindow_self]
      simp [Window.guarded, Lifecycle.inService, Window.restarted, Window.cleaned, desc]
    · exact congrArg _ (window_setWindow_ne s _ hj)
  case disable k _ =>
    refine h.toLive rfl (.inl ?_) fun j hj => congrArg _ (window_setWindow_ne s _ hj)
    show ((s.setWindow k _).window k).guarded = _
    rw [window_setWindow_self]
    rfl
  case trip r => exact h.trip rfl rfl
  case release state => exact h.release state rfl rfl
  case restore k pending =>
    refine h.toLive rfl (.inr fun hs => ?_) fun _ _ => rfl
    exact absurd pending (by simp [(h.tripped hs).2.1 k])
  case softReset => exact .all_initial rfl rfl (entry_softReset s.tu)
  case fullReset => exact .all_initial rfl rfl entry_reset
  all_goals
    exact h.congr (fun _ => by simp [State.freed, TripUnit.entry]) (by simp [State.freed]) (by simp [State.freed])
      fun k => congrArg _ (window_congr (by simp [State.freed]) k)

end Sys2Proof.Machine
end

section
/-! SUPPORT. The laws of the stamp queue (R113), kept by every event: a record stands only behind an entry of its window, and
the engine is granted nothing while one stands. -/
namespace Sys2Proof.Machine

theorem holds_iff {re : ResyncEngine} {k : Slot} : re.holds k = true ↔ ∃ e ∈ re.queue, e.slot = k := by
  simp [ResyncEngine.holds]

theorem holds_of_mem {re : ResyncEngine} {e : Entry} (h : e ∈ re.queue) : re.holds e.slot = true := holds_iff.2 ⟨e, h, rfl⟩

theorem holds_append_of_holds {re : ResyncEngine} {j k : Slot} {set : SegmentSet} (h : re.holds j = true) :
    (re.append k set).holds j = true := by
  obtain ⟨e, he, hj⟩ := holds_iff.1 h
  exact holds_iff.2 ⟨e, mem_append.2 (.inl he), hj⟩

/-- A group that is not empty leaves its window with an entry. -/
theorem holds_append_self (re : ResyncEngine) (k : Slot) {set : SegmentSet} (h : set ≠ 0) :
    (re.append k set).holds k = true := by
  obtain ⟨i, hi⟩ : ∃ i : Segment, set.getLsbD i.val = true := by
    by_contra no
    push Not at no
    exact h (BitVec.eq_of_getLsbD_eq fun i hi => by simpa using no ⟨i, hi⟩)
  exact holds_iff.2 ⟨{ slot := k, seg := i }, mem_append.2 (.inr ⟨rfl, hi⟩), rfl⟩

/-! ### Fewer records -/

/-- Records that leave, with entries and windows that serve the records left as before. -/
theorem StampsLawful.fewer {s t : State} (h : StampsLawful s) (sub : t.sw.queue.Sublist s.sw.queue)
    (in_service : ∀ r ∈ t.sw.queue, (t.window r.slot).life.inService = true)
    (has_entry : ∀ r ∈ t.sw.queue, (t.window r.slot).life ≠ .faulted → t.re.holds r.slot = true)
    (not_copied : ∀ c ∈ t.re.copy, c.stage = .granted → ∀ e ∈ t.re.queue.head?, ∀ r ∈ t.sw.queue, r.slot ≠ e.slot) :
    StampsLawful t :=
  ⟨h.one_each.sublist (sub.map _), in_service, has_entry, not_copied, fun r hr => h.late_le r (sub.subset hr)⟩

/-- The engine's queue and copy stay, and the windows of the records stay in service, FAULTED if they were. -/
theorem StampsLawful.same_engine {s t : State} (h : StampsLawful s) (sub : t.sw.queue.Sublist s.sw.queue)
    (queue : t.re.queue = s.re.queue) (copy : t.re.copy = s.re.copy)
    (life : ∀ r ∈ t.sw.queue, (t.window r.slot).life.inService = true ∧
      ((s.window r.slot).life = .faulted → (t.window r.slot).life = .faulted)) : StampsLawful t := by
  refine h.fewer sub (fun r hr => (life r hr).1) (fun r hr serves => ?_) fun c hc granted e he r hr => ?_
  · have old := h.has_entry r (sub.subset hr) (mt (life r hr).2 serves)
    rwa [ResyncEngine.holds, queue]
  · exact h.not_copied c (copy ▸ hc) granted e (queue ▸ he) r (sub.subset hr)

/-- Nothing of the engine, the stamp queue and the lifecycles moves. -/
theorem StampsLawful.congr {s t : State} (h : StampsLawful s) (sw : t.sw = s.sw) (queue : t.re.queue = s.re.queue)
    (copy : t.re.copy = s.re.copy) (life : ∀ k, (t.window k).life = (s.window k).life) : StampsLawful t :=
  h.same_engine (sw ▸ .refl _) queue copy fun r hr => ⟨life r.slot ▸ h.in_service r (sw ▸ hr), fun hf => life r.slot ▸ hf⟩

/-- A record replaced at a slot, in a lifecycle that suits a record that may stand for it. -/
theorem StampsLawful.setWindow {s : State} {k : Slot} (h : StampsLawful s) {w : Window}
    (life : (∃ r ∈ s.sw.queue, r.slot = k) → w.life.inService = true ∧ ((s.window k).life = .faulted → w.life = .faulted)) :
    StampsLawful (s.setWindow k w) := by
  refine h.same_engine (.refl _) rfl rfl fun r hr => ?_
  rw [window_setWindow]
  split
  · rename_i hk
    exact hk ▸ life ⟨r, hr, hk⟩
  · exact ⟨h.in_service r hr, id⟩

theorem StampsLawful.setWindow_free {s : State} {k : Slot} (h : StampsLawful s)
    (free : (s.window k).life.inService = false) (w : Window) : StampsLawful (s.setWindow k w) :=
  h.setWindow fun ⟨r, hr, hk⟩ => absurd hk (h.no_record free r hr)

theorem StampsLawful.empty {t : State} (h : t.sw.queue = []) : StampsLawful t := by
  constructor <;> simp [h]

/-! ### Groups and records that join -/

/-- While a copy is under way, the head of the queue stays as a group joins behind it. -/
theorem QueueLawful.head_append {s : State} (h : QueueLawful s) {c : Copy} (hc : c ∈ s.re.copy) {k : Slot}
    {set : SegmentSet} {e : Entry} (he : e ∈ (s.re.append k set).queue.head?) : e ∈ s.re.queue.head? := by
  obtain ⟨head, hhead, -⟩ := h.in_flight c hc
  have : head = e := by simpa [ResyncEngine.append, List.head?_append, Option.mem_def.1 hhead] using he
  exact this ▸ hhead

/-- A window with neither record nor entry hands over a group and, it may be, a record: ENABLE and a flip. -/
theorem StampsLawful.join {s t : State} {k : Slot} {set : SegmentSet} {w : Window} {a : Option StampRecord}
    (h : StampsLawful s) (queue : QueueLawful s) (hre : t.re = s.re.append k set)
    (hw : t.windows = (s.setWindow k w).windows) (sw : t.sw.queue = s.sw.queue ++ a.toList)
    (record : ∀ r ∈ a, r.slot = k ∧ r.lateCount ≤ 255) (no_record : ∀ r ∈ s.sw.queue, r.slot ≠ k)
    (no_entry : ∀ e ∈ s.re.queue, e.slot ≠ k) (group : set ≠ 0) (life : w.life.inService = true) : StampsLawful t := by
  have mem : ∀ {r}, r ∈ t.sw.queue → r ∈ s.sw.queue ∨ r ∈ a := fun hr => by simpa [sw] using hr
  have at_slot : t.window k = w := by rw [window_congr hw, window_setWindow_self]
  have other : ∀ {r}, r ∈ s.sw.queue → t.window r.slot = s.window r.slot := fun hr => by
    rw [window_congr hw, window_setWindow_ne s w (no_record _ hr)]
  constructor
  case one_each =>
    rw [sw, List.map_append]
    refine List.nodup_append.2 ⟨h.one_each, by cases a <;> simp, ?_⟩
    rintro _ hx _ hy rfl
    obtain ⟨r, hr, rfl⟩ := List.mem_map.1 hx
    obtain ⟨r', hr', same⟩ := List.mem_map.1 hy
    exact no_record r hr (same ▸ (record r' (by simpa using hr')).1)
  case in_service =>
    intro r hr
    rcases mem hr with old | new
    · exact other old ▸ h.in_service r old
    · rw [(record r new).1, at_slot, life]
  case has_entry =>
    intro r hr serves
    rw [hre]
    rcases mem hr with old | new
    · exact holds_append_of_holds (h.has_entry r old (other old ▸ serves))
    · exact (record r new).1 ▸ holds_append_self s.re k group
  case not_copied =>
    intro c hc granted e he r hr
    rw [hre] at hc he
    have head := queue.head_append hc he
    rcases mem hr with old | new
    · exact h.not_copied c hc granted e head r old
    · exact (record r new).1 ▸ (no_entry e (List.mem_of_mem_head? head)).symm
  case late_le =>
    intro r hr
    rcases mem hr with old | new
    · exact h.late_le r old
    · exact (record r new).2

/-- ABORT hands over a group of a window whose record, if it has one, has an entry already. -/
theorem StampsLawful.append {s t : State} {k : Slot} {set : SegmentSet} {w : Window} (h : StampsLawful s)
    (queue : QueueLawful s) (hre : t.re = s.re.append k set) (hw : t.windows = (s.setWindow k w).windows)
    (sw : t.sw = s.sw) (life : w.life = (s.window k).life) : StampsLawful t := by
  have lives : ∀ j, (t.window j).life = (s.window j).life := fun j => by
    rw [window_congr hw, window_setWindow]
    split
    · exact (‹j = k› ▸ life :)
    · rfl
  refine h.fewer (sw ▸ .refl _) (fun r hr => ?_) (fun r hr serves => ?_) fun c hc granted e he r hr => ?_
  · exact lives r.slot ▸ h.in_service r (sw ▸ hr)
  · exact hre ▸ holds_append_of_holds (h.has_entry r (sw ▸ hr) (lives r.slot ▸ serves))
  · rw [hre] at hc he
    exact h.not_copied c hc granted e (queue.head_append hc he) r (sw ▸ hr)

/-! ### Entries that leave -/

theorem holds_purge {re : ResyncEngine} {j k : Slot} (h : re.holds j = true) (hj : j ≠ k) :
    (re.purge k).holds j = true := by
  obtain ⟨e, he, rfl⟩ := holds_iff.1 h
  exact holds_of_mem (mem_purge.2 ⟨he, hj⟩)

/-- DISABLE takes a window's entries and its record. -/
theorem StampsLawful.disable {s t : State} {k : Slot} {w : Window} (h : StampsLawful s) (queue : QueueLawful s)
    (hre : t.re = s.re.purge k) (hsw : t.sw = s.sw.remove k) (hw : t.windows = (s.setWindow k w).windows) :
    StampsLawful t := by
  have left : t.sw.queue = s.sw.queue.filter (·.slot ≠ k) := by rw [hsw, (remove_removed s.sw k).queue]
  have mem : ∀ {r}, r ∈ t.sw.queue → r ∈ s.sw.queue ∧ r.slot ≠ k := fun hr => by simpa [left] using hr
  have other : ∀ {r}, r ∈ t.sw.queue → t.window r.slot = s.window r.slot := fun hr => by
    rw [window_congr hw, window_setWindow_ne s w (mem hr).2]
  refine h.fewer (left ▸ List.filter_sublist) (fun r hr => ?_) (fun r hr serves => ?_) fun c hc granted e he r hr => ?_
  · exact other hr ▸ h.in_service r (mem hr).1
  · exact hre ▸ holds_purge (h.has_entry r (mem hr).1 (other hr ▸ serves)) (mem hr).2
  · rw [hre] at hc he
    obtain ⟨copy, -, head⟩ := copy_purge hc
    obtain ⟨e', he', -⟩ := queue.in_flight c copy
    have same := head_filter_of_head he' (head e' he')
    obtain rfl : e' = e := Option.some.inj (same.symm.trans he)
    exact h.not_copied c copy granted e' he' r (mem hr).1

/-- A failed copy takes its window's entries, and leaves a record that may stand for it: the window is FAULTED. -/
theorem StampsLawful.copyFails {s t : State} {k : Slot} (h : StampsLawful s)
    (hre : t.re = { s.re with copy := none }.purge k) (hsw : t.sw = s.sw)
    (hw : t.windows = (s.setWindow k (s.window k).fail).windows) : StampsLawful t := by
  have none : t.re.copy = none := by simp [hre, ResyncEngine.purge]
  have other : ∀ {j}, j ≠ k → t.window j = s.window j := fun hj => by rw [window_congr hw, window_setWindow_ne s _ hj]
  have at_slot : (t.window k).life = .faulted := by rw [window_congr hw, window_setWindow_self]; rfl
  refine h.fewer (hsw ▸ .refl _) (fun r hr => ?_) (fun r hr serves => ?_) (by simp [none])
  · by_cases hk : r.slot = k
    · rw [hk, at_slot]; rfl
    · exact other hk ▸ h.in_service r (hsw ▸ hr)
  · have hk : r.slot ≠ k := fun hk => serves (hk ▸ at_slot)
    have old : s.re.holds r.slot = true := h.has_entry r (hsw ▸ hr) (other hk ▸ serves)
    rw [hre]
    exact holds_purge (re := { s.re with copy := Option.none }) old hk

/-- An OK answer moves the copy on, or takes the head entry, of whose window no record stands. -/
theorem StampsLawful.advance {s t : State} {c : Copy} {e : Entry} {rest : List Entry} {n : Nat} {word : Word}
    (h : StampsLawful s) (copy : s.re.copy = some c) (granted : c.stage = .granted) (queue : s.re.queue = e :: rest)
    (hre : t.re = s.re.advance c n word) (hsw : t.sw = s.sw) (hw : t.windows = s.windows) : StampsLawful t := by
  have no_record : ∀ r ∈ s.sw.queue, r.slot ≠ e.slot := h.not_copied c copy granted e (by simp [queue])
  have entries : (t.re.queue = s.re.queue ∨ t.re.queue = rest) ∧ ∀ c' ∈ t.re.copy, c'.stage = .requested := by
    rw [hre]
    unfold ResyncEngine.advance
    split
    · exact ⟨.inl rfl, by simp⟩
    · split
      · exact ⟨.inl rfl, by simp⟩
      · exact ⟨.inr (by simp [ResyncEngine.finish, queue]), by simp [ResyncEngine.finish]⟩
  refine h.fewer (hsw ▸ .refl _) (fun r hr => ?_) (fun r hr serves => ?_) fun c' hc' now => ?_
  · exact window_congr hw _ ▸ h.in_service r (hsw ▸ hr)
  · have hr : r ∈ s.sw.queue := hsw ▸ hr
    obtain ⟨e', he', hk⟩ := holds_iff.1 (h.has_entry r hr (window_congr hw _ ▸ serves))
    have in_rest : e' ∈ rest :=
      (List.mem_cons.1 (queue ▸ he')).resolve_left fun same => no_record r hr (by rw [← hk, same])
    refine holds_iff.2 ⟨e', ?_, hk⟩
    rcases entries.1 with same | tail
    · exact same ▸ he'
    · exact tail ▸ in_rest
  · simp [entries.2 c' hc'] at now

/-! ### Grants -/

/-- While the stamp writer asks, a grant goes to it or to the consumer port (R101). -/
theorem arbitrate_stamp {cp hp re : Option Access} {b a : Access} {n m : Nat}
    (h : arbitrate cp (some b) hp re n = some (a, m)) : cp = some a ∨ a = b := by
  cases cp with
  | some x => exact .inl (congrArg (Option.map Prod.fst) h)
  | none => exact .inr (congrArg Prod.fst (Option.some.inj h)).symm

/-- A stamp queue that is not empty asks while the memory port is free (R114). -/
theorem MemoryLawful.stamp_asks {s : State} (h : MemoryLawful s) (free : s.mp.awaiting = none)
    (records : s.sw.queue ≠ []) : ∃ b, s.sw.access = some b ∧ b.client = .sw := by
  obtain ⟨-, -, -, sw⟩ := h.not_out (out := none) (by simp [State.clientOut, free])
  obtain ⟨-, quiet⟩ : s.sw.discarded = false ∧ _ := by simpa [StampWriter.accessOut] using sw (by simp)
  have stage : s.sw.stage = .requested := by
    cases hs : s.sw.stage with
    | requested => rfl
    | granted => exact absurd hs (quiet records)
  obtain ⟨r, rest, hq⟩ := List.exists_cons_of_ne_nil records
  obtain ⟨b, hb⟩ : ∃ b, s.sw.access = some b := by
    simp only [stampAccess_iff, StampWriter.Asks]
    exact ⟨_, r, by simp [hq], stage, rfl⟩
  exact ⟨b, hb, stampAccess_client hb⟩

/-- While a record stands, a grant goes to the consumer port or to the stamp writer (R101, R113). -/
theorem MemoryLawful.granted_before_copy {s : State} {a : Access} {n : Nat} (h : MemoryLawful s)
    (free : s.mp.awaiting = none) (records : s.sw.queue ≠ []) (choice : s.grantChoice = some (a, n)) :
    a.client = .cp ∨ a.client = .sw := by
  obtain ⟨b, hb, client⟩ := h.stamp_asks free records
  rw [State.grantChoice, hb] at choice
  rcases arbitrate_stamp choice with won | rfl
  · exact .inl (portRequest_client won)
  · exact .inr client

theorem StampsLawful.grant {s : State} {a : Access} {n : Nat} (h : StampsLawful s) (memory : MemoryLawful s)
    (free : s.mp.awaiting = none) (choice : s.grantChoice = some (a, n)) : StampsLawful (s.issue a n) := by
  have records : (s.issue a n).sw.queue = s.sw.queue := by rw [sw_issue]; split <;> rfl
  by_cases engine : a.client = .re
  · refine .empty (records.trans ?_)
    by_contra some
    rcases memory.granted_before_copy free some choice with no | no <;> rw [engine] at no <;> cases no
  · have hre := re_issue s a n
    rw [if_neg engine] at hre
    refine h.same_engine (records ▸ .refl _) (by rw [hre]) (by rw [hre]) fun r hr => ?_
    rw [window_congr (windows_issue s a n)]
    exact ⟨h.in_service r (records ▸ hr), id⟩

/-! ### Every event -/

theorem queue_answer_sublist (sw : StampWriter) (ans : ClientAnswer) : (sw.answer ans).queue.Sublist sw.queue := by
  rcases stampAnswer_cases sw ans with ⟨-, e⟩ | ⟨-, -, e⟩ | ⟨-, -, -, -, e⟩ | ⟨-, -, -, e⟩ <;> rw [e]
  exact List.tail_sublist _

theorem copy_granted {s : State} {c : Copy} (memory : MemoryLawful s) (out : s.clientOut = some .re)
    (own : s.re.orphaned = false) (copy : s.re.copy = some c) : c.stage = .granted := by
  have := memory.re_out
  simpa [ResyncEngine.accessOut, out, own, copy] using this

theorem life_receive (w : Window) (b : Boundary) : (w.receive b).life = w.life := by
  rcases receive_cases w b with e | ⟨-, -, e⟩ <;> rw [e]

theorem StampsLawful.event {s t : State} (ev : Event s t) (h : StampsLawful s) (windows : WindowsLawful s)
    (queue : QueueLawful s) (memory : MemoryLawful s) : StampsLawful t := by
  cases ev
  case deliver src => exact h.congr rfl rfl rfl fun k => by rw [window_deliver, life_receive]
  case define k d free _ _ => exact h.setWindow_free free _
  case clear k life => exact h.setWindow_free (by simp [life, Lifecycle.inService]) _
  case swap k l old new =>
    refine h.setWindow fun _ => ⟨?_, fun no => ?_⟩
    · rcases new with rfl | rfl <;> rfl
    · rcases old with e | e <;> simp [e] at no
  case mark k w life _ _ _ =>
    refine h.setWindow fun ⟨r, hr, hk⟩ => ⟨?_, fun no => life.trans no⟩
    exact life ▸ hk ▸ h.in_service r hr
  case stage k seg life _ => exact h.setWindow fun ⟨r, hr, hk⟩ => ⟨hk ▸ h.in_service r hr, id⟩
  case enable k d life desc =>
    have free : (s.window k).life.inService = false := by simp [life, Lifecycle.inService]
    refine h.join (a := d.stampAddr.map (enableRecord s k (s.window k) d)) queue rfl rfl ?_ ?_ (h.no_record free)
      (queue.no_entry free) (by decide) rfl
    · cases d.stampAddr <;> simp [append_withRecord]
    · cases d.stampAddr <;> simp [enableRecord]
  case flip k d seq desc phase may =>
    obtain ⟨life, none, -⟩ := mayFlip_iff.1 may
    refine h.join (a := d.stampAddr.map fun a => flipRecord k (s.window k) d a seq) queue rfl rfl ?_ ?_ ?_ ?_ ?_ ?_
    · unfold State.flip
      cases d.stampAddr <;> simp [append_withRecord]
    · cases d.stampAddr <;> simp [flipRecord, (windows k).late_le]
    · rintro r hr rfl
      exact absurd (h.has_entry r hr (by simp [life])) (by simp [none])
    · rintro e he rfl
      exact absurd (holds_of_mem he) (by simp [none])
    · exact fun no => absurd ((windows k).clean_iff.2 no) (by simp [phase])
    · simp only [Window.flipped, life]
      split <;> rfl
  case disable k _ => exact h.disable queue rfl rfl rfl
  case abort k _ => exact h.append queue rfl rfl rfl rfl
  case copyFails c e rest _ _ _ _ => exact h.copyFails rfl rfl rfl
  case park e ready queued head =>
    have perm : (promoted s.re.queue s.re.copy.isSome e).Perm s.re.queue := promoted_perm _ queued
    refine h.fewer (.refl _) h.in_service (fun r hr serves => ?_) fun c hc granted e' he' r hr => ?_
    · obtain ⟨e', he', hk⟩ := holds_iff.1 (h.has_entry r hr serves)
      exact holds_iff.2 ⟨e', perm.mem_iff.2 he', hk⟩
    · have copy : s.re.copy = some c := hc
      have head : e' ∈ (promoted s.re.queue s.re.copy.isSome e).head? := he'
      rw [copy, Option.isSome_some, promoted_head e (List.ne_nil_of_mem queued)] at head
      exact h.not_copied c copy granted e' head r hr
  case grant a n free choice => exact h.grant memory free choice
  case advance c e rest word out own copy hq => exact h.advance copy (copy_granted memory out own copy) hq rfl rfl rfl
  case takeInFlight e rest _ _ =>
    refine h.fewer (.refl _) h.in_service h.has_entry fun c hc granted => ?_
    cases hc
    cases granted
  case stamped ans _ _ =>
    have sub := queue_answer_sublist s.sw ans
    exact h.same_engine sub rfl rfl fun r hr => ⟨h.in_service r (sub.subset hr), id⟩
  case orphan => exact h.congr rfl rfl rfl fun _ => rfl
  case softReset => exact .empty rfl
  case fullReset => exact .empty rfl
  all_goals
    exact h.congr (by simp [State.freed]) (by simp [State.freed]) (by simp [State.freed])
      fun k => congrArg _ (window_congr (by simp [State.freed]) k)

end Sys2Proof.Machine
end

section
/-! SUPPORT. Every law of the bridge, kept by every step: each law of the events before, put together. -/
namespace Sys2Proof.Machine

theorem FaultsLawful.congr {s t : State} (h : FaultsLawful s) (au : t.au = s.au) : FaultsLawful t := by
  rwa [FaultsLawful, au]

theorem FaultsLawful.event {s t : State} (ev : Event s t) (h : FaultsLawful s) : FaultsLawful t := by
  cases ev
  case attention au faults => exact faults h
  case softReset => exact Nat.zero_le 4
  case fullReset => exact Nat.zero_le 4
  all_goals exact h.congr (by simp [State.freed])

theorem State.Lawful.event {s t : State} (ev : Event s t) (h : s.Lawful) : t.Lawful where
  windows := h.windows.event ev h.queue
  overlap := h.overlap.event ev h.windows
  queue := h.queue.event ev h.windows
  ports := h.ports.event ev
  memory := h.memory.event ev h.queue h.ports
  stamps := h.stamps.event ev h.windows h.queue h.memory
  boundary := h.boundary.event ev
  views := h.views.event ev h.queue
  faults := h.faults.event ev

/-- Settles O60: every event of a step keeps every law, each law leaning on those it needs. -/
theorem everyStepKeepsEveryLaw : Obligations.EveryStepKeepsEveryLaw := kept_of_events fun _ _ => State.Lawful.event

/-- Settles O56: the window records and the resync queue keep each other's laws. -/
theorem resyncQueueStaysLawful : Obligations.ResyncQueueStaysLawful :=
  kept_of_events fun _ _ ev ⟨windows, queue⟩ => ⟨windows.event ev queue, queue.event ev windows⟩

/-- Settles O55: one step of a path on which the resync queue stays lawful too. -/
theorem windowRecordsStayLawful : Obligations.WindowRecordsStayLawful := fun s t windows queue hstep =>
  (resyncQueueStaysLawful s t ⟨windows, queue⟩ hstep).1

/-- Settles O57: the ports keep their laws alone; the memory port needs theirs and those of the resync queue. -/
theorem oneAccessIsOut : Obligations.OneAccessIsOut :=
  kept_of_events fun _ _ ev ⟨windows, queue, ports, memory⟩ =>
    ⟨windows.event ev queue, queue.event ev windows, ports.event ev, memory.event ev queue ports⟩

/-- Settles O58: each event moves timer, filters and watch by an operation that keeps its law. -/
theorem boundarySourcesStayLawful : Obligations.BoundarySourcesStayLawful :=
  kept_of_events fun _ _ => BoundaryLawful.event

/-- Settles O59: a failed copy keeps its window in service, since the resync queue names only windows in service. -/
theorem viewsStayTiedToTheTripState : Obligations.ViewsStayTiedToTheTripState :=
  kept_of_events fun _ _ ev ⟨windows, queue, views⟩ =>
    ⟨windows.event ev queue, queue.event ev windows, views.event ev queue⟩

/-! ### The reset state -/

theorem windowsLawful_reset : WindowsLawful State.reset := fun k => window_reset k ▸ Window.lawful_initial

theorem noOverlap_reset : NoOverlap State.reset := fun j k _ d hd => by simp [Window.initial] at hd

theorem portsLawful_reset : PortsLawful State.reset :=
  .of_ports Port.lawful_initial Port.lawful_initial (nomatch ·) (nomatch ·) (nomatch ·)

theorem memoryLawful_reset : MemoryLawful State.reset := by
  constructor <;> decide

theorem viewsLawful_reset : ViewsLawful State.reset := .all_initial rfl rfl entry_reset

/-- Settles O54: every record is at its initial value, and every queue is empty. -/
theorem resetMeetsEveryLaw : Obligations.ResetMeetsEveryLaw where
  windows := windowsLawful_reset
  overlap := noOverlap_reset
  queue := .initial rfl
  ports := portsLawful_reset
  memory := memoryLawful_reset
  stamps := .empty rfl
  boundary := boundaryLawful_reset
  views := viewsLawful_reset
  faults := Nat.zero_le 4

end Sys2Proof.Machine
end

section
/-! SUPPORT. The link's own statements (chapter 11): what an owner answers and leaves alone, frames judged and read back, and
the end of a frame. -/
namespace Sys2Proof.Machine

/-! ### What an owner answers (R1, R167, section 11.5.1) -/

/-- The attention unit after the owner of a command has carried it out: only four commands touch it. -/
def attentionAfter (s : State) : Instr → AttentionUnit
  | .tripNow            => (s.tripDemand .command).au
  | .clearCauses causes => { s.au with causes := s.au.causes &&& ~~~causes }
  | .setMask causes     => { s.au with enables := causes }
  | .readFault          => { s.au with faults := s.au.faults.tail }
  | _                   => s.au

/-- What no block touches when it carries out a command of the link, and the attention unit afterwards. -/
structure LinkFrame (s : State) (au : AttentionUnit) (t : State) : Prop where
  ml      : t.ml = s.ml
  hp      : t.hp = s.hp
  cp      : t.cp = s.cp
  out     : t.out = s.out
  pins    : t.pins = s.pins
  choices : t.choices = s.choices
  pending : t.pending = s.pending
  au      : t.au = au

theorem LinkFrame.refl (s : State) : LinkFrame s s.au s := ⟨rfl, rfl, rfl, rfl, rfl, rfl, rfl, rfl⟩

/-- An owner's answer: DONE with the data bytes of its row, or a failure that changes nothing and carries no data. -/
structure Owned (s : State) (au : AttentionUnit) (data : Nat) (r : State × Reply) : Prop where
  frame   : LinkFrame s au r.1
  done    : r.2.status = .done → r.2.data.length = data
  refused : r.2.status ≠ .done → r.1 = s ∧ r.2.data = []

theorem Owned.fail {s : State} {n : Nat} {st : Status} (h : st ≠ .done) : Owned s s.au n (s, .fail st) :=
  ⟨.refl s, fun no => absurd no h, fun _ => ⟨rfl, rfl⟩⟩

theorem Owned.report {s : State} {n : Nat} {data : List Byte} (h : data.length = n) : Owned s s.au n (s, .report data) :=
  ⟨.refl s, fun _ => h, fun no => absurd rfl no⟩

theorem Owned.ofDone {s t : State} {au : AttentionUnit} (h : LinkFrame s au t) : Owned s au 0 (t, .done) :=
  ⟨h, fun _ => rfl, fun no => absurd rfl no⟩

theorem owned_onSlot {slot : Byte} {act : Slot → State → State × Reply} {s : State} {n : Nat}
    (h : ∀ k, Owned s s.au n (act k s)) : Owned s s.au n (onSlot slot act s) := by
  rcases onSlot_cases slot act s with ⟨-, e⟩ | ⟨k, -, e⟩ <;> rw [e]
  · exact .fail (by decide)
  · exact h k

theorem owned_onParam {α : Type} {operand : Option α} {act : α → State → State × Reply} {s : State} {n : Nat}
    (h : ∀ x, Owned s s.au n (act x s)) : Owned s s.au n (onParam operand act s) := by
  rcases onParam_cases operand act s with ⟨-, e⟩ | ⟨x, -, e⟩ <;> rw [e]
  · exact .fail (by decide)
  · exact h x

theorem owned_answerNop (padding : List Byte) (s : State) : Owned s s.au 0 (answerNop padding s) := by
  unfold answerNop; split
  · exact .ofDone (.refl s)
  · exact .fail (by decide)

theorem owned_defineAt (o : DefineOperands) (k : Slot) (s : State) : Owned s s.au 0 (defineAt o k s) := by
  unfold defineAt; dsimp only; split
  · exact .fail (by decide)
  · split
    · exact .fail (by decide)
    · split
      · exact .fail (by decide)
      · exact .ofDone ⟨rfl, rfl, rfl, rfl, rfl, rfl, rfl, rfl⟩

theorem owned_enableAt (k : Slot) (s : State) : Owned s s.au 0 (enableAt k s) := by
  unfold enableAt; dsimp only; split
  · exact .ofDone ⟨rfl, rfl, rfl, rfl, rfl, rfl, rfl, rfl⟩
  · exact .fail (by decide)

theorem owned_disableAt (k : Slot) (s : State) : Owned s s.au 0 (disableAt k s) := by
  unfold disableAt; dsimp only; split
  · exact .ofDone ⟨rfl, rfl, rfl, rfl, rfl, rfl, rfl, rfl⟩
  · exact .fail (by decide)

/-- CLEAR, HOLD and RELEASE replace one record from one lifecycle, and fail from the others. -/
theorem owned_setWindow {s : State} {p : Prop} [Decidable p] {k : Slot} {w : Window} :
    Owned s s.au 0 (if p then (s.setWindow k w, .done) else (s, .fail .badState)) := by
  split
  · exact .ofDone ⟨rfl, rfl, rfl, rfl, rfl, rfl, rfl, rfl⟩
  · exact .fail (by decide)

theorem owned_abortAt (k : Slot) (s : State) : Owned s s.au 0 (abortAt k s) := by
  unfold abortAt; dsimp only; split
  · exact .ofDone ⟨rfl, rfl, rfl, rfl, rfl, rfl, rfl, rfl⟩
  · exact .fail (by decide)

theorem owned_setTimer (x : TimerSettings) (s : State) : Owned s s.au 0 (setTimer x s) := by
  unfold setTimer; dsimp only; split
  · split
    · exact .ofDone ⟨rfl, rfl, rfl, rfl, rfl, rfl, rfl, rfl⟩
    · exact .fail (by decide)
  · exact .ofDone ⟨rfl, rfl, rfl, rfl, rfl, rfl, rfl, rfl⟩

theorem owned_startTimer (s : State) : Owned s s.au 0 (startTimer s) := by
  unfold startTimer; split
  · exact .fail (by decide)
  · exact .ofDone ⟨rfl, rfl, rfl, rfl, rfl, rfl, rfl, rfl⟩

theorem owned_releaseTrip (s : State) : Owned s s.au 0 (releaseTrip s) := by
  unfold releaseTrip; split
  · exact .ofDone ⟨rfl, rfl, rfl, rfl, rfl, rfl, rfl, rfl⟩
  · exact .fail (by decide)

theorem linkFrame_tripDemand (s : State) (r : TripReason) : LinkFrame s (s.tripDemand r).au (s.tripDemand r) := by
  constructor <;> simp

theorem length_deviceReport (s : State) : (deviceReport s).length = 10 := by
  cases h : s.re.inFlight <;> simp [deviceReport, bytesOf2, bytes2, inFlightBytes, h]

theorem owned_readFault (s : State) : Owned s { s.au with faults := s.au.faults.tail } 8 (readFault s) := by
  unfold readFault; split
  · rename_i empty
    have same : { s.au with faults := s.au.faults.tail } = s.au := by rw [empty, List.tail_nil, ← empty]
    rw [same]
    exact .fail (by decide)
  · rename_i r rs faults
    rw [faults, List.tail_cons]
    exact ⟨⟨rfl, rfl, rfl, rfl, rfl, rfl, rfl, rfl⟩, fun _ => rfl, fun no => absurd rfl no⟩

theorem owned_readRefusal (s : State) : Owned s s.au 5 (readRefusal s) := by
  unfold readRefusal; split
  · exact .fail (by decide)
  · exact .report rfl

/-- Every command with an owner has a row of the command table, and its owner answers with that row's data. -/
theorem owned_of_ownerOf {c : Instr} {act : State → State × Reply} (h : ownerOf c = some act) (s : State) :
    ∃ code ops row, commandBody c = some (code :: ops) ∧ commandRow code = some row ∧
      Owned s (attentionAfter s c) row.data (act s) := by
  cases c <;> cases h <;> refine ⟨_, _, _, rfl, rfl, ?_⟩
  case nop padding => exact owned_answerNop padding s
  case queryDevice => exact .report (length_deviceReport s)
  case define o => exact owned_onSlot fun k => owned_defineAt o k s
  case enable => exact owned_onSlot fun k => owned_enableAt k s
  case disable => exact owned_onSlot fun k => owned_disableAt k s
  case clear | hold | release => exact owned_onSlot fun k => owned_setWindow
  case abort => exact owned_onSlot fun k => owned_abortAt k s
  case queryWindow => exact owned_onSlot fun k => .report rfl
  case ptSet => exact owned_onParam fun x => owned_setTimer x s
  case ptStart => exact owned_startTimer s
  case tripNow => exact .ofDone (linkFrame_tripDemand s .command)
  case tripRelease => exact owned_releaseTrip s
  case ptQuery | watchQuery | readCauses => exact .report rfl
  case readFault => exact owned_readFault s
  case readRefusal => exact owned_readRefusal s
  case forceBoundary | lineSet | watchSet | tripSet | memorySet =>
    exact owned_onParam fun x => .ofDone ⟨rfl, rfl, rfl, rfl, rfl, rfl, rfl, rfl⟩
  case ptStop | clearCauses | setMask => exact .ofDone ⟨rfl, rfl, rfl, rfl, rfl, rfl, rfl, rfl⟩

theorem frame_of_ownerOf {c : Instr} {act : State → State × Reply} (h : ownerOf c = some act) (s : State) :
    LinkFrame s (attentionAfter s c) (act s).1 := by
  obtain ⟨_, _, _, -, -, owned⟩ := owned_of_ownerOf h s
  exact owned.frame

theorem code_eq_done_iff {st : Status} : st.code = 0x00#8 ↔ st = .done := by cases st <;> decide

/-- A command sent in a frame is SOFT RESET or has an owner. -/
theorem owner_of_encodeFrame {c : Instr} {frame : List Byte} (h : encodeFrame c = some frame) :
    c = .softReset ∨ ∃ act, ownerOf c = some act :=
  commandBody_isSome_iff.1 (encodeFrame_isSome ▸ Option.isSome_of_mem h)

/-! ### The machine -/

/-- Settles O1: the queue is not empty, and its front is `c`. -/
theorem stepRunsFrontCommand : Obligations.StepRunsFrontCommand := fun _ _ _ => rfl

/-! ### Every event of the bridge's own blocks -/

/-- A relation of states that the effects of the bridge's own events keep to. -/
structure Respects (R : State → State → Prop) : Prop where
  refl     : ∀ s, R s s
  link     : ∀ (s : State) ml, R s { s with ml := ml }
  answer   : ∀ (s : State) p r, (s.port p).queue ≠ [] → R s (s.answerHead p r)
  carry    : ∀ (s : State) p a tr, (s.port p).queue ≠ [] → R s (s.carryOut p a tr)
  issue    : ∀ (s : State) a n, R s (s.issue a n)
  ended    : ∀ (s : State) (a : AwaitingAccess) ans, R s (s.endAccess a.access ans)
  inFlight : ∀ (s : State) copy, R s { s with re := { s.re with copy := copy } }
  count    : ∀ s : State, R s s.countStep
  line     : ∀ (s : State) l, R s ({ s with pins := { s.pins with bnd := l } } : State).sampleLine
  watch    : ∀ s : State, R s s.watchCount
  trip     : ∀ (s : State) l, R s ({ s with pins := { s.pins with trp := l } } : State).sampleTrip

theorem Respects.timeOut {R : State → State → Prop} (h : Respects R) (s : State) : R s s.timeOut := by
  rcases timeOut_cases s with e | ⟨a, -, -, e⟩ <;> rw [e]
  · exact h.refl s
  · exact h.ended ..

/-- An event of the bridge's own is one of the effects, or an offer, or a boundary taken. -/
theorem Respects.exec {R : State → State → Prop} (h : Respects R) {c : Instr} (body : commandBody c = none)
    (reset : ∀ b, c ≠ .fullReset b) (frame : ∀ bits, c ≠ .frameNotTaken bits) (s : State)
    (offer : ∀ p r, c = .requestAccept p r → R s (s.setPort p ((s.port p).offered r)))
    (boundary : ∀ k, c = .windowTakeBoundary k → R s (s.takeBoundary k)) : ∃ t, exec c s = .next t ∧ R s t := by
  have head : ∀ {p r rest}, (s.port p).queue = r :: rest → (s.port p).queue ≠ [] := fun e => by simp [e]
  cases c
  case fullReset b => exact absurd rfl (reset b)
  case frameNotTaken bits => exact absurd rfl (frame bits)
  case requestAccept p r => exact ⟨_, rfl, offer p r rfl⟩
  case windowTakeBoundary k => exact ⟨_, rfl, boundary k rfl⟩
  case hostTakeInService =>
    refine ⟨_, rfl, ?_⟩
    rcases hostTake_cases s with e | ⟨r, rest, -, hq, ⟨-, e⟩ | ⟨-, e⟩⟩ <;> rw [e]
    · exact h.refl s
    · exact h.answer s .host _ (head hq)
    · exact h.carry s .host _ _ (head hq)
  case consumerTakeInService =>
    refine ⟨_, rfl, ?_⟩
    rcases consumerTake_cases s with e | ⟨r, rest, -, hq, ⟨-, e⟩ | ⟨-, e⟩⟩ <;> rw [e]
    · exact h.refl s
    · exact h.answer s .consumer _ (head hq)
    · exact h.carry s .consumer _ _ (head hq)
  case parkedWriteTranslateAfresh =>
    refine ⟨_, rfl, ?_⟩
    rcases retranslate_cases s with e | ⟨r, rest, -, -, hq, e⟩ <;> rw [e]
    · exact h.refl s
    · exact h.carry s .host _ _ (head hq)
  case memoryGrant =>
    refine ⟨_, rfl, ?_⟩
    rcases grant_cases s with e | ⟨a, n, -, -, e⟩ <;> rw [e]
    · exact h.refl s
    · exact h.issue s a n
  case memoryAnswer tag ans =>
    refine ⟨_, rfl, ?_⟩
    rcases takeAnswer_cases s tag ans with ⟨e, -⟩ | ⟨a, -, -, e⟩ <;> rw [e]
    · exact h.refl s
    · exact h.ended s a _
  case accessTimeout => exact ⟨_, rfl, h.timeOut s⟩
  case resyncTakeInFlight =>
    refine ⟨_, rfl, ?_⟩
    rcases takeInFlight_cases s with e | ⟨e', rest, -, -, -, e⟩ <;> rw [e]
    · exact h.refl s
    · exact h.inFlight s _
  case ptCountStep => exact ⟨_, rfl, h.count s⟩
  case lineSample l => exact ⟨_, rfl, h.line s l⟩
  case watchStep => exact ⟨_, rfl, h.watch s⟩
  case tripSample l => exact ⟨_, rfl, h.trip s l⟩
  case csnFall => exact ⟨_, rfl, h.link s _⟩
  case discardedFrame =>
    refine ⟨_, rfl, ?_⟩
    split
    · exact h.link s _
    · exact h.refl s
  all_goals cases body

/-! ### Every part of a bridge clock -/

/-- A relation of states that the parts of a clock after the memory port's keep to. -/
structure ClockRespects (R : State → State → Prop) : Prop where
  refl    : ∀ s, R s s
  trans   : ∀ {s t u}, R s t → R t u → R s u
  sources : ∀ (s : State) bu, bu.ptSeq = s.bu.ptSeq → bu.bxSeq = s.bu.bxSeq → R s { s with bu := bu }
  filter  : ∀ (s : State) f, R s { s with tu := { s.tu with filter := f } }
  deliver : ∀ (s : State) src, R s (s.deliver src)
  raise   : ∀ (s : State) c, R s (s.raise c)
  demand  : ∀ (s : State) r, R s (s.tripDemand r)

section
variable {R : State → State → Prop}

theorem ClockRespects.countStep (h : ClockRespects R) (s : State) : R s s.countStep := by
  rcases countStep_cases s with ⟨-, e⟩ | ⟨-, -, e⟩ | ⟨-, -, e⟩ <;> rw [e]
  · exact h.refl s
  · exact h.sources s _ rfl rfl
  · have stepped := h.sources s { s.bu with pt := s.bu.pt.step.1 } rfl rfl
    exact h.trans stepped (h.deliver ..)

theorem ClockRespects.sampleLine (h : ClockRespects R) (s : State) : R s s.sampleLine := by
  have sampled := h.sources s { s.bu with line := s.bu.line.sample s.pins.bnd } rfl rfl
  unfold State.sampleLine
  dsimp only
  split
  · refine h.trans sampled ?_
    unfold State.bxEdge
    dsimp only
    have judged := h.sources { s with bu := { s.bu with line := s.bu.line.sample s.pins.bnd } }
      { s.bu with line := s.bu.line.sample s.pins.bnd, watch := s.bu.watch.edge } rfl rfl
    split
    · exact h.trans judged (h.deliver ..)
    · exact h.trans judged (h.raise ..)
  · exact sampled

theorem ClockRespects.watchCount (h : ClockRespects R) (s : State) : R s s.watchCount := by
  rcases watchCount_cases s with ⟨-, e⟩ | ⟨-, -, e⟩ | ⟨-, -, t, ht, e⟩ <;> rw [e]
  · exact h.refl s
  · exact h.sources s _ rfl rfl
  · have started := h.sources s { s.bu with watch := { s.bu.watch with count := 0, prescale := 0 } } rfl rfl
    have lost : R s t := ht ▸ h.trans started (h.raise ..)
    split
    · exact h.trans lost (h.demand ..)
    · exact lost

theorem ClockRespects.sampleTrip (h : ClockRespects R) (s : State) : R s s.sampleTrip := by
  have sampled := h.filter s (s.tu.filter.sample s.pins.trp)
  unfold State.sampleTrip
  dsimp only
  split
  · exact h.trans sampled (h.demand ..)
  · exact sampled

theorem ClockRespects.clockTimer (h : ClockRespects R) (s : State) : R s s.clockTimer := by
  unfold State.clockTimer
  dsimp only
  split
  · split
    · exact h.countStep s
    · exact h.sources s _ rfl rfl
  · exact h.refl s

theorem ClockRespects.clockLine (h : ClockRespects R) (s : State) : R s s.clockLine := by
  unfold State.clockLine
  dsimp only
  split
  · exact h.sampleLine s
  · exact h.sources s _ rfl rfl

theorem ClockRespects.clockTrip (h : ClockRespects R) (s : State) : R s s.clockTrip := by
  unfold State.clockTrip
  dsimp only
  split
  · exact h.sampleTrip s
  · exact h.filter s _

theorem ClockRespects.clockWatch (h : ClockRespects R) (s : State) : R s s.clockWatch := by
  unfold State.clockWatch
  dsimp only
  split
  · split
    · exact h.watchCount s
    · exact h.sources s _ rfl rfl
  · exact h.refl s

/-- The clock from its part at the memory port on. -/
theorem ClockRespects.tick (h : ClockRespects R) (s : State) :
    R ({ s with choices := s.choices + 1 } : State).clockMemory s.tick := by
  have both : ∀ (u : State) first, R u (u.clockLineAndWatch first) := by
    intro u first
    simp only [State.clockLineAndWatch]
    split
    · split
      · exact h.clockLine u
      · exact h.trans (h.clockLine u) (h.clockWatch _)
    · exact h.trans (h.clockWatch u) (h.clockLine _)
  have start := h.clockTimer ({ s with choices := s.choices + 1 } : State).clockMemory
  simp only [State.tick]
  split
  · exact h.trans start (h.trans (h.clockTrip _) (both ..))
  · exact h.trans start (h.trans (both ..) (h.clockTrip _))

end

/-- The clock at the memory port counts, or times the awaiting access out at its limit. -/
theorem clockMemory_cases (s : State) :
    (s.mp.awaiting = none ∧ s.clockMemory = s) ∨ ∃ a, s.mp.awaiting = some a ∧
      (((∀ l ∈ a.limit, a.clocks + 1 < l) ∧
          s.clockMemory = { s with mp := { s.mp with awaiting := some { a with clocks := a.clocks + 1 } } }) ∨
       ((∃ l ∈ a.limit, l ≤ a.clocks + 1) ∧ s.clockMemory = s.timeOut)) := by
  cases hm : s.mp.awaiting with
  | none => exact .inl ⟨rfl, by simp [State.clockMemory, hm]⟩
  | some a =>
    refine .inr ⟨a, rfl, ?_⟩
    cases hl : a.limit with
    | none => exact .inl ⟨by simp, by simp [State.clockMemory, hm, hl]⟩
    | some l =>
      by_cases due : l ≤ a.clocks + 1
      · exact .inr ⟨⟨l, rfl, due⟩, by simp [State.clockMemory, hm, hl, due, State.timeOut, State.endAccess]⟩
      · exact .inl ⟨by simpa using due, by simp [State.clockMemory, hm, hl, due]⟩

/-! ### What a command raises and what it keeps (R157) -/

/-- The model's own counter and queue and the enable set are kept, and causes are only raised. -/
structure Grows (s t : State) : Prop where
  pending : t.pending = s.pending
  choices : t.choices = s.choices
  enables : t.au.enables = s.au.enables
  causes  : ∃ m, t.au.causes = s.au.causes ||| m

/-- So do the events of a bridge clock, which leave the link, the lines and the refusal record too. -/
structure Quiet (s t : State) : Prop extends Grows s t where
  ml      : t.ml = s.ml
  pins    : t.pins = s.pins
  refusal : t.au.refusal = s.au.refusal

theorem Grows.of_au {s t : State} (au : t.au = s.au) (pending : t.pending = s.pending) (choices : t.choices = s.choices) :
    Grows s t := ⟨pending, choices, by rw [au], 0, by simp [au]⟩

theorem Grows.trans {s t u : State} (h : Grows s t) (h' : Grows t u) : Grows s u := by
  obtain ⟨m, hm⟩ := h.causes
  obtain ⟨n, hn⟩ := h'.causes
  exact ⟨h'.pending.trans h.pending, h'.choices.trans h.choices, h'.enables.trans h.enables, m ||| n,
    by rw [hn, hm, BitVec.or_assoc]⟩

theorem Quiet.of_au {s t : State} (au : t.au = s.au) (ml : t.ml = s.ml) (pins : t.pins = s.pins)
    (pending : t.pending = s.pending) (choices : t.choices = s.choices) : Quiet s t :=
  ⟨.of_au au pending choices, ml, pins, by rw [au]⟩

theorem Quiet.refl (s : State) : Quiet s s := .of_au rfl rfl rfl rfl rfl

theorem Quiet.trans {s t u : State} (h : Quiet s t) (h' : Quiet t u) : Quiet s u :=
  ⟨h.toGrows.trans h'.toGrows, h'.ml.trans h.ml, h'.pins.trans h.pins, h'.refusal.trans h.refusal⟩

theorem quiet_raise (s : State) (c : Cause) : Quiet s (s.raise c) := ⟨⟨rfl, rfl, rfl, c.mask, rfl⟩, rfl, rfl, rfl⟩

theorem quiet_deliver (s : State) (src : Source) : Quiet s (s.deliver src) := .of_au rfl rfl rfl rfl rfl

theorem quiet_tripDemand (s : State) (r : TripReason) : Quiet s (s.tripDemand r) := by
  rcases tripDemand_cases s r with ⟨-, e⟩ | ⟨-, e⟩ <;> rw [e]
  · exact .refl s
  · exact ⟨⟨rfl, rfl, rfl, _, rfl⟩, rfl, rfl, rfl⟩

theorem quiet_withFault (s : State) (r : FaultRecord) : Quiet s { s with au := s.au.withFault r } := by
  unfold AttentionUnit.withFault
  split <;> exact ⟨⟨rfl, rfl, rfl, _, rfl⟩, rfl, rfl, rfl⟩

theorem quiet_answerHead (s : State) (p : PortId) (r : PortResponse) : Quiet s (s.answerHead p r) := by
  cases p <;> exact .of_au rfl rfl rfl rfl rfl

/-! ### Answers (R104, R106) -/

theorem quiet_complete (s : State) (t : Translated) : Quiet s (s.complete t) := by
  rcases complete_cases s t with e | ⟨_, _, _, _, _, _, _, _, e⟩ <;> rw [e] <;> exact .of_au rfl rfl rfl rfl rfl

theorem quiet_answerHost (s : State) (ans : ClientAnswer) : Quiet s (s.answerHost ans) := by
  rcases answerHost_cases s ans with e | ⟨t, r, rest, -, -, ⟨w, -, e⟩ | ⟨k, -, e⟩⟩ <;> rw [e]
  · exact .refl s
  · split
    · exact (quiet_complete s t).trans (quiet_answerHead ..)
    · exact quiet_answerHead ..
  · exact quiet_answerHead ..

theorem quiet_answerConsumer (s : State) (ans : ClientAnswer) : Quiet s (s.answerConsumer ans) := by
  rcases answerConsumer_cases s ans with e | ⟨t, r, rest, -, -, ⟨w, -, e⟩ | ⟨k, -, e⟩⟩ <;> rw [e]
  · exact .refl s
  · exact quiet_answerHead ..
  · exact quiet_answerHead ..

theorem quiet_answerResync (s : State) (ans : ClientAnswer) : Quiet s (s.answerResync ans) := by
  rcases answerResync_cases s ans with ⟨-, e⟩ | ⟨-, e⟩ | ⟨-, c, e', rest, -, -, ⟨w, -, e⟩ | ⟨k, -, e⟩⟩ <;> rw [e]
  · exact .of_au rfl rfl rfl rfl rfl
  · exact .refl s
  · exact .of_au rfl rfl rfl rfl rfl
  · exact ⟨⟨rfl, rfl, rfl, _, rfl⟩, rfl, rfl, rfl⟩

theorem quiet_answerClient (s : State) (c : Client) (ans : ClientAnswer) : Quiet s (s.answerClient c ans) := by
  cases c with
  | hp => exact quiet_answerHost s ans
  | cp => exact quiet_answerConsumer s ans
  | re => exact quiet_answerResync s ans
  | sw => exact .of_au rfl rfl rfl rfl rfl

theorem quiet_endAccess (s : State) (a : AwaitingAccess) (ans : ClientAnswer) : Quiet s (s.endAccess a.access ans) := by
  have freed : Quiet s s.freed := .of_au rfl rfl rfl rfl rfl
  cases ans with
  | ok w => exact freed.trans (quiet_answerClient s.freed a.access.client _)
  | failure kind =>
    rw [endAccess_failure]
    exact (freed.trans (quiet_withFault s.freed _)).trans (quiet_answerClient ..)

theorem quiet_timeOut (s : State) : Quiet s s.timeOut := by
  rcases timeOut_cases s with e | ⟨a, -, -, e⟩ <;> rw [e]
  · exact .refl s
  · exact quiet_endAccess ..

/-! ### A bridge clock, ports and windows -/

theorem clockRespects_quiet : ClockRespects Quiet where
  refl := .refl
  trans := .trans
  sources _ _ _ _ := .of_au rfl rfl rfl rfl rfl
  filter _ _ := .of_au rfl rfl rfl rfl rfl
  deliver := quiet_deliver
  raise := quiet_raise
  demand := quiet_tripDemand

/-- One bridge clock draws its free value first, and is quiet from there. -/
theorem quiet_tick (s : State) : Quiet { s with choices := s.choices + 1 } s.tick := by
  refine Quiet.trans ?_ (clockRespects_quiet.tick s)
  rcases clockMemory_cases { s with choices := s.choices + 1 } with ⟨-, e⟩ | ⟨a, -, ⟨-, e⟩ | ⟨-, e⟩⟩ <;> rw [e]
  · exact .refl _
  · exact .of_au rfl rfl rfl rfl rfl
  · exact quiet_timeOut _

theorem grows_carryOut (s : State) (p : PortId) (a : Addr) (tr : Translation) : Grows s (s.carryOut p a tr) := by
  cases tr with
  | access t =>
    have staged : Grows s (s.stageFor t a) := by
      unfold State.stageFor
      split
      · split <;> exact .of_au rfl rfl rfl
      · exact .of_au rfl rfl rfl
    exact staged.trans (by cases p <;> exact .of_au rfl rfl rfl)
  | refuse r => cases p <;> exact ⟨rfl, rfl, rfl, _, rfl⟩
  | fill w => exact (quiet_answerHead ..).toGrows
  | park e => cases p <;> exact .of_au rfl rfl rfl

theorem grows_takeBoundary (s : State) (k : Slot) : Grows s (s.takeBoundary k) := by
  have restored : ∀ u : State, Grows u (u.restore k) := fun u => by
    rcases restore_cases u k with ⟨-, e⟩ | ⟨-, e⟩ <;> rw [e] <;> exact .of_au rfl rfl rfl
  rcases takeBoundary_cases s k with e | ⟨b, rest, d, -, -, ⟨-, e⟩ | ⟨-, e⟩⟩ <;> rw [e]
  · exact .of_au rfl rfl rfl
  · exact .of_au rfl rfl rfl
  · have start : Grows s (s.setWindow k { s.window k with inbox := rest, cadenceCount := 0 }) := .of_au rfl rfl rfl
    refine start.trans ?_
    rcases eligible_cases (s.setWindow k { s.window k with inbox := rest, cadenceCount := 0 }) k d b.seq with
      ⟨-, e⟩ | ⟨-, -, e⟩ | ⟨-, -, e⟩ <;> rw [e] <;> refine (restored _).trans ?_
    · exact .of_au rfl rfl rfl
    · exact .of_au rfl rfl rfl
    · exact ⟨rfl, rfl, rfl, _, rfl⟩

theorem respects_grows : Respects Grows where
  refl _ := .of_au rfl rfl rfl
  link _ _ := .of_au rfl rfl rfl
  answer s p r _ := (quiet_answerHead s p r).toGrows
  carry s p a tr _ := grows_carryOut s p a tr
  issue _ _ _ := .of_au (by simp) (by simp) (by simp)
  ended s a ans := (quiet_endAccess s a ans).toGrows
  inFlight _ _ := .of_au rfl rfl rfl
  count s := (clockRespects_quiet.countStep s).toGrows
  line s l := Grows.trans (t := { s with pins := { s.pins with bnd := l } }) (.of_au rfl rfl rfl)
    (clockRespects_quiet.sampleLine _).toGrows
  watch s := (clockRespects_quiet.watchCount s).toGrows
  trip s l := Grows.trans (t := { s with pins := { s.pins with trp := l } }) (.of_au rfl rfl rfl)
    (clockRespects_quiet.sampleTrip _).toGrows

/-- Every event of the bridge's own blocks only raises causes. -/
theorem grows_exec {c : Instr} (body : commandBody c = none) (reset : ∀ b, c ≠ .fullReset b)
    (frame : ∀ bits, c ≠ .frameNotTaken bits) (s : State) : ∃ t, exec c s = .next t ∧ Grows s t :=
  respects_grows.exec body reset frame s (fun p _ _ => by cases p <;> exact .of_au rfl rfl rfl)
    fun k _ => grows_takeBoundary s k

/-- A command is sent in a frame, or is an event of the bridge's own, a frame that is judged, or a full reset. -/
theorem command_cases (c : Instr) :
    c = .softReset ∨ (∃ act, ownerOf c = some act) ∨ (∃ b, c = .fullReset b) ∨ (∃ bits, c = .frameNotTaken bits) ∨
      (commandBody c = none ∧ (∀ b, c ≠ .fullReset b) ∧ ∀ bits, c ≠ .frameNotTaken bits) := by
  cases h : commandBody c with
  | some body =>
    rcases commandBody_isSome_iff.1 (Option.isSome_of_mem h) with e | e
    · exact .inl e
    · exact .inr (.inl e)
  | none => cases c <;> simp [commandBody] at h ⊢

/-! ### Every command completes (notes/assumptions/5.md) -/

/-- A command of the link completes, with the model's own counter and queue kept. -/
theorem completes_of_body {c : Instr} (h : c = .softReset ∨ ∃ act, ownerOf c = some act) (s : State) :
    ∃ t, exec c s = .next t ∧ t.pending = s.pending ∧ t.choices = s.choices := by
  rcases h with rfl | ⟨act, hact⟩
  · refine ⟨_, rfl, ?_⟩
    split <;> exact ⟨rfl, rfl⟩
  · refine ⟨_, exec_of_owner hact s, ?_⟩
    have frame := frame_of_ownerOf hact s
    rcases takeCommand_cases s c act with e | ⟨ml, e, -⟩ <;> rw [e]
    · exact ⟨rfl, rfl⟩
    · exact ⟨frame.pending, frame.choices⟩

/-- Settles O2: commands of the link by their owners, a frame by the command it is taken as, and the bridge's own events
one by one. -/
theorem everyCommandCompletes : Obligations.EveryCommandCompletes := by
  intro c s
  rcases command_cases c with h | h | ⟨b, rfl⟩ | ⟨bits, rfl⟩ | ⟨body, reset, frame⟩
  · exact completes_of_body (.inl h) s
  · exact completes_of_body (.inr h) s
  · exact ⟨_, rfl, rfl, rfl⟩
  · rcases exec_frameNotTaken_cases bits s with ⟨ml, e⟩ | ⟨c, -, body, e⟩
    · exact ⟨_, e, rfl, rfl⟩
    · exact e ▸ completes_of_body (commandBody_isSome_iff.1 body) s
  · obtain ⟨t, e, grows⟩ := grows_exec body reset frame s
    exact ⟨t, e, grows.pending, grows.choices⟩

end Sys2Proof.Machine
end

section
/-! SUPPORT. Frames and responses (chapter 11), and causes that stay (R157). -/
namespace Sys2Proof.Machine

/-! ### Causes (R156, R157) -/

theorem present_iff {au : AttentionUnit} {c : Cause} : au.present c = true ↔ au.causes &&& c.mask ≠ 0#8 :=
  decide_eq_true_iff

/-- More causes in the set leave a present cause present. -/
theorem present_of_causes_or {au au' : AttentionUnit} {m : CauseSet} (h : au'.causes = au.causes ||| m) {c : Cause}
    (hc : au.present c = true) : au'.present c = true := by
  rw [present_iff] at hc ⊢
  rw [h, BitVec.and_or_distrib_right]
  exact fun no => hc (BitVec.or_eq_zero_iff.1 no).1

theorem Grows.present {s t : State} (h : Grows s t) {c : Cause} (hc : s.au.present c = true) : t.au.present c = true := by
  obtain ⟨m, hm⟩ := h.causes
  exact present_of_causes_or hm hc

/-- A cause that is not named stays as causes are cleared. -/
theorem and_not_and_of_disjoint {x b m : CauseSet} (h : b &&& m = 0#8) : x &&& ~~~b &&& m = x &&& m := by
  refine BitVec.eq_of_getLsbD_eq fun i hi => ?_
  have apart : (b.getLsbD i && m.getLsbD i) = false := by simpa using congrArg (·.getLsbD i) h
  rw [BitVec.getLsbD_and, BitVec.getLsbD_and, BitVec.getLsbD_and, BitVec.getLsbD_not]
  revert apart
  cases b.getLsbD i <;> cases m.getLsbD i <;> simp [hi]

/-- What a command of the link may do to the causes and to the enable set. -/
theorem attentionAfter_keeps (s : State) (c : Instr) :
    (∀ k : Cause, s.au.present k = true → (attentionAfter s c).present k = true ∨
      ∃ b, c = .clearCauses b ∧ b &&& k.mask ≠ 0#8) ∧
    ((attentionAfter s c).enables = s.au.enables ∨ ∃ b, c = .setMask b) := by
  unfold attentionAfter
  split
  · have quiet := quiet_tripDemand s .command
    exact ⟨fun k hk => .inl (quiet.toGrows.present hk), .inl quiet.enables⟩
  · rename_i b
    refine ⟨fun k hk => ?_, .inl rfl⟩
    by_cases named : b &&& k.mask = 0#8
    · refine .inl (present_iff.2 ?_)
      rw [and_not_and_of_disjoint named]
      exact present_iff.1 hk
    · exact .inr ⟨b, rfl, named⟩
  · exact ⟨fun k hk => .inl hk, .inr ⟨_, rfl⟩⟩
  · exact ⟨fun k hk => .inl hk, .inl rfl⟩
  · exact ⟨fun k hk => .inl hk, .inl rfl⟩

theorem next_inj {s t : State} (h : (Host.Outcome.next s : Host.Outcome State Fault Refusal) = .next t) : s = t := by
  injection h

/-- Settles O37: the link's commands by what they do to the attention unit, the bridge's own events by what they raise. -/
theorem causesStayUntilCleared : Obligations.CausesStayUntilCleared := by
  refine ⟨fun c s t k wf h => ?_, fun s t empty h => ?_⟩
  · rcases command_cases c with rfl | ⟨act, hact⟩ | ⟨b, rfl⟩ | ⟨bits, rfl⟩ | ⟨body, reset, frame⟩
    · refine ⟨fun _ => .inr (.inl rfl), .inl ?_⟩
      rw [← next_inj h]
      split <;> rfl
    · rw [exec_of_owner hact] at h
      obtain rfl := next_inj h
      obtain ⟨causes, enables⟩ := attentionAfter_keeps s c
      have au := (frame_of_ownerOf hact s).au
      rcases takeCommand_cases s c act with e | ⟨ml, e, -⟩ <;> rw [e]
      · exact ⟨.inl, .inl rfl⟩
      · simp only [au]
        exact ⟨fun hk => (causes k hk).imp_right fun named => .inr (.inr named), enables.imp_right .inl⟩
    · exact ⟨fun _ => .inr (.inr (.inl ⟨b, rfl⟩)), .inr (.inr ⟨b, rfl⟩)⟩
    · obtain ⟨ml, e⟩ : ∃ ml, exec (.frameNotTaken bits) s = .next { s with ml := ml } := by
        rcases exec_frameNotTaken_cases bits s with e | ⟨c, taken, -⟩
        · exact e
        · simp [Instr.wellFormed, frameFails, taken] at wf
      obtain rfl := next_inj (e.symm.trans h)
      exact ⟨.inl, .inl rfl⟩
    · obtain ⟨u, e, grows⟩ := grows_exec body reset frame s
      obtain rfl := next_inj (e.symm.trans h)
      exact ⟨fun hk => .inl (grows.present hk), .inl grows.enables⟩
  · obtain rfl : s.tick = t := by
      rw [step, empty] at h
      exact next_inj h
    have quiet := quiet_tick s
    exact ⟨fun k hk => quiet.toGrows.present hk, quiet.enables⟩

/-! ### Frames read back (R165, R166) -/

theorem encodeFrame_eq_some {c : Instr} {frame : List Byte} (h : encodeFrame c = some frame) :
    ∃ code ops, commandBody c = some (code :: ops) ∧ frame = code :: ops ++ [checkByte (code :: ops)] := by
  obtain ⟨body, hbody, rfl⟩ := Option.map_eq_some_iff.1 h
  rcases owner_of_encodeFrame h with rfl | ⟨act, hact⟩
  · cases hbody
    exact ⟨_, _, rfl, rfl⟩
  · obtain ⟨code, ops, -, hbody', -⟩ := owned_of_ownerOf hact .reset
    obtain rfl := Option.some.inj (hbody.symm.trans hbody')
    exact ⟨code, ops, hbody, rfl⟩

/-- Every command that is sent in a frame is read back from its body (section 11.5.1). -/
theorem reads_back {c : Instr} (body : (commandBody c).isSome = true) : Laws.ReadsBack.Statement c := by
  cases c
  case nop padding => exact Laws.ReadsBack.nop padding
  case define o => exact Laws.ReadsBack.define o
  case ptSet e m sel p => exact Laws.ReadsBack.ptSet e m sel p
  case watchSet en e mn mx t => exact Laws.ReadsBack.watchSet en e mn mx t
  case queryDevice | enable | disable | clear | hold | release | abort | queryWindow | ptStart | ptStop | ptQuery
      | forceBoundary | lineSet | watchQuery | tripSet | tripNow | tripRelease | readCauses | clearCauses | setMask
      | readFault | readRefusal | memorySet | softReset =>
    exact Laws.ReadsBack.of_body rfl rfl fun _ => rfl
  all_goals cases body

/-- A body closed by its check byte is judged by the reader of its code. -/
theorem judgeFrame_framed (code : Byte) (ops : List Byte) :
    judgeFrame (bytesBits (code :: ops ++ [checkByte (code :: ops)])) =
      (operandReader code).elim (.error .badCommand) fun read => (read ops).elim (.error .badLength) .ok := by
  have judged := judgeFrame_bytes (code :: ops ++ [checkByte (code :: ops)]) (L := []) (by decide)
  rw [List.append_nil, if_neg (by simp), List.dropLast_concat, if_neg (by rw [List.getLast?_concat]; simp)] at judged
  rw [judged]
  dsimp only
  cases operandReader code with
  | none => rfl
  | some read =>
    dsimp only [Option.elim_some]
    cases read ops <;> rfl

/-- Settles O4: the frame passes the length and check-byte tests, and its code's reader gives the command back. -/
theorem framesReadBackAsTheirCommands : Obligations.FramesReadBackAsTheirCommands := by
  intro c frame wf h
  obtain ⟨code, ops, body, rfl⟩ := encodeFrame_eq_some h
  obtain ⟨read, reader, back⟩ := reads_back (by simp [body]) wf code ops body
  rw [judgeFrame_framed, reader, Option.elim_some, back, Option.elim_some]

/-- Settles O5: the readers of section 11.5.1 take no operand bytes but those they give back. -/
theorem passingFramesAreTheirCommandsFrames : Obligations.PassingFramesAreTheirCommandsFrames := by
  intro bits c h
  obtain ⟨body, hbody, rfl, wf⟩ := commandBody_of_judgeFrame h
  exact ⟨wf, _, by simp [encodeFrame, hbody], rfl⟩

/-! ### A frame judged (R166) -/

/-- A frame that fails a check is answered with the failure status and its first whole byte. -/
theorem exec_frameNotTaken_bytes {s : State} (hf : s.ml.frame ≠ .discarding) {B : List Byte} {L : List Bool}
    (hL : L.length < 8) {st : Status} (h : judgeFrame (bytesBits B ++ L) = .error st) :
    exec (.frameNotTaken (bytesBits B ++ L)) s = .next { s with
      ml := { frame := .none, rx := bytesBits B ++ L,
              response := { status := st.code, echo := B.headD 0xFF#8, data := [] },
              sdo := s.ml.response.shifted (bytesBits B ++ L).length } } := by
  rw [exec_frameNotTaken_error hf h, failedResponse, frameEcho_bytes B hL, ManagementLink.endFrame]

/-- Settles O6: the checks one after the other; a frame that passes them all is read by the row of its code. -/
theorem frameIsJudgedInOrder : Obligations.FrameIsJudgedInOrder := by
  intro s B L hf hL
  have judged := judgeFrame_bytes B hL
  have fails := @exec_frameNotTaken_bytes s hf B L hL
  dsimp only
  split
  · rename_i short
    exact fails (st := .badLength) (by rw [judged, if_pos short])
  rename_i long
  rw [if_neg long] at judged
  split
  · rename_i check
    exact fails (st := .badCheck) (by rw [judged]; exact if_pos check)
  rename_i check
  obtain ⟨rfl, len⟩ : L = [] ∧ 1 < B.length := by simpa using long
  obtain ⟨code, ops, rfl⟩ : ∃ code ops, B = code :: ops ++ [checkByte (code :: ops)] := by
    have last : B.getLast? = some (checkByte B.dropLast) := not_not.1 check
    cases body : B.dropLast with
    | nil =>
      have := congrArg List.length body
      simp at this
      omega
    | cons code ops => exact ⟨code, ops, by rw [← body, List.dropLast_append_getLast? _ last]⟩
  replace judged := judgeFrame_framed code ops
  rw [← List.append_nil (bytesBits _)] at judged
  have count : (code :: ops ++ [checkByte (code :: ops)]).length = 2 + ops.length := by simp; omega
  show match commandRow code with
    | none => _
    | some row => _
  cases reader : operandReader code with
  | none =>
    rw [commandRow_of_no_reader reader]
    exact fails (st := .badCommand) (by rw [judged, reader]; rfl)
  | some read =>
    obtain ⟨row, hrow, rfl, reads⟩ := reads_of_operandReader reader
    simp only [hrow, count, Nat.add_le_add_iff_left]
    cases taken : read ops with
    | none =>
      rw [if_neg fun fits => by simpa [taken] using (reads.length ops).2 fits]
      exact fails (st := .badLength) (by rw [judged, reader, Option.elim_some, taken]; rfl)
    | some c =>
      rw [if_pos ((reads.length ops).1 (by simp [taken]))]
      obtain ⟨body, -⟩ := reads.body ops c taken
      exact ⟨c, by simp [encodeFrame, body], exec_frameNotTaken_ok hf (by rw [judged, reader, Option.elim_some, taken]; rfl)⟩

end Sys2Proof.Machine
end

section
/-! SUPPORT. Responses, resets and queries at the management link (sections 11.3 to 11.5). -/
namespace Sys2Proof.Machine

/-! ### The end of a frame (R167, R168) -/

theorem frameBits_of_frame {c : Instr} {frame : List Byte} (h : encodeFrame c = some frame) :
    frameBits c = bytesBits frame := by simp [frameBits, h]

theorem shifted_frameBits (r : LinkResponse) {c : Instr} {frame : List Byte} (h : encodeFrame c = some frame) :
    r.shifted (frameBits c).length =
      (bytesBits r.bytes ++ List.replicate (8 * frame.length) true).take (8 * frame.length) := by
  rw [frameBits_of_frame h, length_bytesBits, LinkResponse.shifted]

/-- Settles O7: the link ends the frame in the same way for every owner, whose answer holds its row's data or none. -/
theorem responseGoesOutUnderTheNextFrame : Obligations.ResponseGoesOutUnderTheNextFrame := by
  intro c frame s h hf
  rcases owner_of_encodeFrame h with rfl | ⟨act, hact⟩
  · refine ⟨_, rfl, ?_⟩
    rw [if_neg hf]
    exact ⟨rfl, frameBits_of_frame h, shifted_frameBits _ h, fun _ => rfl, absurd rfl⟩
  · obtain ⟨code, ops, row, body, hrow, owned⟩ := owned_of_ownerOf hact s
    obtain rfl : code :: ops ++ [checkByte (code :: ops)] = frame := by
      simpa [encodeFrame, body] using h
    refine ⟨_, exec_of_owner hact s, ?_⟩
    rw [State.takeCommand, if_neg hf]
    refine ⟨rfl, frameBits_of_frame h, shifted_frameBits _ h, ?_, fun _ => ⟨?_, fun row' hrow' => ?_⟩⟩
    · rintro rfl
      cases hact
    · simp [ManagementLink.endFrame, responseTo, body]
    · obtain rfl : row = row' := Option.some.inj (hrow.symm.trans hrow')
      show (act s).2.data.length = if (act s).2.status.code = 0x00#8 then _ else 0
      split
      · rename_i status
        exact owned.done (code_eq_done_iff.1 status)
      · rename_i status
        rw [(owned.refused (mt code_eq_done_iff.2 status)).2, List.length_nil]

/-- Settles O8: whatever the frame, the rise of a frame to be discarded ends it and keeps the response. -/
theorem framesCutByAResetAreDiscarded : Obligations.FramesCutByAResetAreDiscarded := by
  refine fun s => ⟨fun hf c hc => ?_, fun hf => ?_, rfl⟩
  · rcases hc with sent | ⟨bits, rfl⟩ | rfl
    · rcases commandBody_isSome_iff.1 (encodeFrame_isSome ▸ sent) with rfl | ⟨act, hact⟩
      · exact congrArg Host.Outcome.next (if_pos hf)
      · exact (exec_of_owner hact s).trans (congrArg _ (takeCommand_discarding hf c act))
    · exact exec_frameNotTaken_discarding hf
    · exact congrArg Host.Outcome.next (if_pos hf)
  · exact congrArg Host.Outcome.next (if_neg hf)

/-- Settles O13: an owner's failure leaves the state, a frame not taken reaches no owner, and slots above 15 are refused
before any. -/
theorem refusedCommandsChangeOnlyTheLink : Obligations.RefusedCommandsChangeOnlyTheLink := by
  refine fun s => ⟨fun c t sent notReset h status => ?_, fun bits st t failed h => ?_, fun hf => ⟨?_, ?_⟩⟩
  · obtain ⟨act, hact⟩ := (commandBody_isSome_iff.1 (encodeFrame_isSome ▸ sent)).resolve_left notReset
    obtain ⟨code, ops, row, -, -, owned⟩ := owned_of_ownerOf hact s
    rw [exec_of_owner hact] at h
    obtain rfl := next_inj h
    rcases takeCommand_cases s c act with e | ⟨ml, e, answer⟩ <;> rw [e]
    rw [e, answer] at status
    rw [(owned.refused fun done => status (code_eq_done_iff.2 done)).1]
  · rcases exec_frameNotTaken_cases bits s with ⟨ml, e⟩ | ⟨c, taken, -⟩
    · obtain rfl := next_inj (e.symm.trans h)
      rfl
    · cases taken.symm.trans failed
  · intro slot large c hc
    simp only [List.mem_cons, List.not_mem_nil, or_false] at hc
    rcases hc with rfl | rfl | rfl | rfl | rfl | rfl | rfl <;>
      exact exec_answered rfl hf (onSlot_of_large large _ s) rfl
  · exact fun o large => exec_answered rfl hf (onSlot_of_large large _ s) rfl

/-- Settles O11: the padding fits, or it is longer than a NOP frame holds. -/
theorem nopChangesOnlyTheLink : Obligations.NopChangesOnlyTheLink := by
  refine fun s padding hf => ⟨fun fits => ?_, fun long => ?_⟩
  · have done : answerNop padding s = (s, .done) := if_pos fits
    have bytes : LinkResponse.bytes { status := 0x00#8, echo := 0x00#8, data := [] } = [0x00#8, 0x00#8, 0xFF#8] := by decide
    exact ⟨_, exec_answered rfl hf done rfl, rfl, bytes⟩
  · have long' : answerNop padding s = (s, .fail .badLength) := if_neg (Nat.not_le.2 long)
    exact exec_answered rfl hf long' rfl

/-! ### Resets (R171, R172) -/

theorem atFullReset_reset : AtFullReset State.reset where
  windows := window_reset
  resync := rfl
  stamps := ⟨rfl, rfl⟩
  host := rfl
  consumer := rfl
  memory := rfl
  counters := ⟨rfl, rfl⟩
  timer := rfl
  line := rfl
  watch := rfl
  trip := ⟨rfl, rfl, rfl⟩
  filter := rfl
  views := entry_reset
  causes := rfl
  response := rfl

theorem atFullReset_fullReset (s : State) (csnLow : Bool) : AtFullReset (s.fullReset csnLow) :=
  { atFullReset_reset with }

/-- Settles O9: a full reset writes the reset state but for the records outside the blocks, and the IDLE response of the
buffer goes out under the frame that falls next. -/
theorem fullResetRestoresEveryBlock : Obligations.FullResetRestoresEveryBlock := by
  refine ⟨atFullReset_reset, fun s csnLow => ⟨_, rfl, atFullReset_fullReset s csnLow, rfl, rfl, rfl, fun c frame h => ?_⟩⟩
  let fallen : State :=
    { s.fullReset csnLow with ml := { (s.fullReset csnLow).ml with frame := .receiving, rx := [], sdo := [] } }
  obtain ⟨u, e, -, -, sdo, -⟩ := responseGoesOutUnderTheNextFrame c frame fallen h (nomatch ·)
  have idle : LinkResponse.idle.bytes = [0x01#8, 0xFF#8, 0x01#8] := by decide
  exact ⟨fallen, u, rfl, e, idle ▸ sdo⟩

theorem softReset_of_unused {w : Window} (h : w.life = .unused) : w.softReset = w := by simp [Window.softReset, h]

theorem softReset_of_used {w : Window} (h : w.life ≠ .unused) : w.softReset = { w with
    life := .defined, phase := .clean, dirty := 0, cadenceCount := 0, lateCount := 0, inbox := [] } := by
  cases hl : w.life <;> simp [Window.softReset, Window.restarted, Window.cleaned, hl] at h ⊢

/-- Settles O10: each block's part, written out. -/
theorem softResetTakesEveryBlocksPart : Obligations.SoftResetTakesEveryBlocksPart := by
  intro s hf
  refine ⟨_, congrArg Host.Outcome.next (if_neg hf), fun k => ?_, rfl, rfl, rfl, rfl, rfl, rfl, rfl, rfl, rfl, rfl, rfl,
    rfl, fun k => ?_, rfl, rfl, rfl⟩
  · show ({ s with windows := s.windows.map Window.softReset } : State).window k = _
    rw [window_map]
    split
    · exact softReset_of_unused ‹_›
    · exact softReset_of_used ‹_›
  · exact entry_softReset s.tu k

/-! ### Queries (section 11.5.3) -/

theorem highFirst_one (n : Nat) : highFirst 1 n = [byteOf n] := by simp [highFirst, byteOf]

theorem extract_byte {w : Nat} (v : BitVec w) (start : Nat) :
    v.extractLsb' start 8 = BitVec.ofNat 8 (v.toNat / 2 ^ start) := by
  refine BitVec.eq_of_toNat_eq ?_
  rw [BitVec.extractLsb'_toNat, Nat.shiftRight_eq_div_pow, BitVec.toNat_ofNat]

theorem highFirst_two (v : BitVec 16) : highFirst 2 v.toNat = bytes2 v := by
  simp [highFirst, bytes2, extract_byte, List.range_succ]

theorem highFirst_three (v : BitVec 24) : highFirst 3 v.toNat = bytes3 v := by
  simp [highFirst, bytes3, extract_byte, List.range_succ]

theorem highFirst_four (v : BitVec 32) : highFirst 4 v.toNat = bytes4 v := by
  simp [highFirst, bytes4, extract_byte, List.range_succ]

theorem highFirst_bytesOf2 (n : Nat) : highFirst 2 n = bytesOf2 n := by
  have byte_eq : ∀ a b : Nat, a % 256 = b % 256 → BitVec.ofNat 8 a = BitVec.ofNat 8 b := fun a b h =>
    BitVec.eq_of_toNat_eq (by simpa using h)
  have high : BitVec.ofNat 8 (n / 256) = BitVec.ofNat 8 (n % 65536 / 256) := byte_eq _ _ (by omega)
  have low : BitVec.ofNat 8 n = BitVec.ofNat 8 (n % 65536) := byte_eq _ _ (by omega)
  simp [highFirst, bytesOf2, bytes2, extract_byte, List.range_succ, high, low]

theorem highFirst_addr (a : Addr) : highFirst 3 a.toNat = addrBytes a := by
  have fits : a.toNat = (a.setWidth 24).toNat := by rw [BitVec.toNat_setWidth]; omega
  rw [fits, highFirst_three]
  rfl

theorem byteOf_toNat (b : Bool) : byteOf b.toNat = if b then 1#8 else 0#8 := by cases b <;> rfl

/-- The four flags of QUERY WINDOW, bit by bit. -/
theorem flag_bits : ∀ a b c d : Bool, let f := byteOf (a.toNat + 2 * b.toNat + 4 * c.toNat + 8 * d.toNat)
    f.getLsbD 0 = a ∧ f.getLsbD 1 = b ∧ f.getLsbD 2 = c ∧ f.getLsbD 3 = d ∧ f.toNat < 16 := by decide

theorem windowFlags_bits (s : State) (k : Slot) :
    ((windowFlags s k).getLsbD 0 = true ↔ (s.window k).live = .b) ∧
    ((windowFlags s k).getLsbD 1 = true ↔ (s.tu.entry k).view = .safe) ∧
    ((windowFlags s k).getLsbD 2 = true ↔ (s.tu.entry k).restorePending = true) ∧
    ((windowFlags s k).getLsbD 3 = true ↔ ∃ e ∈ s.re.awaited, e.slot = k) ∧ (windowFlags s k).toNat < 16 := by
  have bank : ∀ x : Bank, x.bit = (decide (x = .b)).toNat := by intro x; cases x <;> rfl
  obtain ⟨live, view, pending, parked, small⟩ := flag_bits (decide ((s.window k).live = .b))
    (decide ((s.tu.entry k).view = .safe)) (s.tu.entry k).restorePending (s.re.awaited.any (·.slot = k))
  rw [windowFlags, bank, live, view, pending, parked]
  exact ⟨decide_eq_true_iff, decide_eq_true_iff, .rfl, by simp [Option.any_eq_true], small⟩

/-- A query is answered DONE with its report, and changes nothing but the link. -/
theorem exec_query {s : State} {c : Instr} {report : State → List Byte} {data : List Byte} (hf : s.ml.frame ≠ .discarding)
    (owner : ownerOf c = some fun s => (s, .report (report s))) (h : report s = data) :
    exec c s = .next (s.answered c 0x00#8 data) :=
  h ▸ exec_answered (exec_of_owner owner s) hf rfl rfl

/-- Settles O12: each query reports the state, whose fields section 11.5.3 lays out high byte first. -/
theorem queriesReportAndChangeNothing : Obligations.QueriesReportAndChangeNothing := by
  intro s hf
  refine ⟨?_, fun slot k hk => ⟨windowFlags s k, ?_, windowFlags_bits s k⟩, ?_, ?_, exec_query hf rfl rfl,
    fun absent => ?_, fun r held => ?_⟩
  · refine exec_query hf rfl ?_
    cases hc : s.re.copy <;> cases hq : s.re.queue <;>
      simp [deviceReport, ResyncEngine.inFlight, hc, hq, inFlightBytes, highFirst_one, highFirst_bytesOf2, State.parked,
        byteOf_toNat]
  · have report : onSlot slot queryWindowAt s = (s, .report (windowReport s k)) := onSlot_of_val hk _ s
    simp only [highFirst_one, highFirst_two, highFirst_four]
    exact exec_answered rfl hf report rfl
  · refine exec_query hf rfl ?_
    cases hd : s.bu.pt.direction <;> simp [timerReport, highFirst_bytesOf2, highFirst_four, byteOf_toNat, hd] <;> rfl
  · refine exec_query hf rfl ?_
    simp [watchReport, highFirst_one, highFirst_bytesOf2, highFirst_four, byteOf_toNat, Watch.lastInterval, Watch.mean]
  · have empty : readRefusal s = (s, .fail .empty) := by simp [readRefusal, absent]
    exact exec_answered rfl hf empty rfl
  · have read : readRefusal s = (s, .report (refusalReport r)) := by simp [readRefusal, held]
    have port : portCode r.port = if r.port = .host then 0#8 else 1#8 := by cases r.port <;> rfl
    rw [refusalReport, port, ← highFirst_addr] at read
    exact exec_answered rfl hf read rfl

end Sys2Proof.Machine
end

section
/-! SUPPORT. The commands of the window table (chapter 1), case by case of the window's lifecycle. -/
namespace Sys2Proof.Machine

theorem inService_iff {l : Lifecycle} : l.inService = true ↔ l = .active ∨ l = .held ∨ l = .faulted := by
  cases l <;> simp [Lifecycle.inService]

/-- A command for a slot of the table is answered as its owner answers it for that slot. -/
theorem exec_onSlot {c : Instr} {slot : Byte} {act : Slot → State → State × Reply} {s t : State} {k : Slot} {r : Reply}
    (harm : exec c s = .next (s.takeCommand c (onSlot slot act))) (hf : s.ml.frame ≠ .discarding)
    (hk : slot.toNat = k.val) (hact : act k s = (t, r)) (hml : t.ml = s.ml) :
    exec c s = .next (t.answered c r.status.code r.data) :=
  exec_answered harm hf ((onSlot_of_val hk act s).trans hact) hml

/-- Settles O14: the checks of DEFINE one after the other. -/
theorem defineIsCheckedInOrder : Obligations.DefineIsCheckedInOrder := by
  refine fun s o k hf hk => ⟨fun busy => ?_, fun free => ⟨fun unfit => ?_, fun fits broken => ?_⟩⟩
  · have refused : defineAt o k s = (s, .fail .badState) := if_pos (inService_iff.2 busy)
    exact exec_onSlot rfl hf hk refused rfl
  · have out : (s.window k).life.inService = false := inService_eq_false_iff.2 free
    have no_desc : descriptorOf o = none := Option.eq_none_iff_forall_ne_some.2 fun d hd => unfit (fits_of_descriptorOf hd)
    have refused : defineAt o k s = (s, .fail .badParam) := by simp [defineAt, out, no_desc]
    exact exec_onSlot rfl hf hk refused rfl
  · have out : (s.window k).life.inService = false := inService_eq_false_iff.2 free
    have refused : defineAt o k s = (s, .fail .overlap) := by
      simp [defineAt, out, descriptorOf_of_fits fits, overlaps_iff_breaksOverlapLaw.2 broken]
    exact exec_onSlot rfl hf hk refused rfl

/-! ### ENABLE, HOLD and RELEASE, DISABLE -/

/-- Settles O16: a DEFINED window, which has a descriptor, is primed; every other lifecycle is refused. -/
theorem enablePrimesTheWindow : Obligations.EnablePrimesTheWindow := by
  refine fun s slot k hf hk => ⟨fun d life desc => ?_, fun life => ?_⟩
  · refine exec_onSlot rfl hf hk (r := .done) ?_ rfl
    unfold enableAt
    dsimp only
    split
    · rename_i d' _ desc'
      obtain rfl : d = d' := Option.some.inj (desc.symm.trans desc')
      congr 2
      · cases d.stampAddr with
        | none => rfl
        | some a => cases hs : d.source <;> simp [append_withRecord, enableRecord, BoundaryUnit.seq, hs]
      · cases d.tripProtected <;> cases hs : s.tu.state <;> simp [TripUnit.enableEntry, hs]
    · rename_i other
      exact absurd desc (other d life)
  · have refused : enableAt k s = (s, .fail .badState) := by
      unfold enableAt
      dsimp only
      split
      · exact absurd ‹_› life
      · rfl
    exact exec_onSlot rfl hf hk refused rfl

/-- Settles O17: each of the two commands has one lifecycle it takes. -/
theorem holdAndReleaseMoveOnlyTheLifecycle : Obligations.HoldAndReleaseMoveOnlyTheLifecycle := by
  refine fun s slot k hf hk => ⟨fun life => ?_, fun life => ?_, fun life => ?_, fun life => ?_⟩
  · have held : holdAt k s = (_, .done) := if_pos life
    exact exec_onSlot rfl hf hk held rfl
  · have refused : holdAt k s = (s, .fail .badState) := if_neg life
    exact exec_onSlot rfl hf hk refused rfl
  · have released : releaseAt k s = (_, .done) := if_pos life
    exact exec_onSlot rfl hf hk released rfl
  · have refused : releaseAt k s = (s, .fail .badState) := if_neg life
    exact exec_onSlot rfl hf hk refused rfl

/-- Settles O18: the purge, the removal and the return to LIVE are those of the resync engine, the stamp writer and the
trip unit. -/
theorem disablePurgesTheWindow : Obligations.DisablePurgesTheWindow := by
  refine fun s slot k hf hk => ⟨fun busy => ?_, fun free => ?_⟩
  · have disabled : disableAt k s = (_, .done) := if_pos (inService_iff.2 busy)
    exact ⟨s.re.purge k, s.sw.remove k, s.tu.toLive k, exec_onSlot rfl hf hk disabled rfl, purge_purged s.re k,
      remove_removed s.sw k, toLive_backToLive s.tu k⟩
  · have refused : disableAt k s = (s, .fail .badState) := if_neg (by simp [inService_eq_false_iff.2 free])
    exact exec_onSlot rfl hf hk refused rfl

/-! ### Classes of addresses (R5) -/

/-- A window gives an address only a class of its own slot, and only outside UNUSED. -/
theorem classOf_eq_some {w : Window} {k : Slot} {a : Addr} {c : AddrClass} (h : w.classOf k a = some c) :
    w.life ≠ .unused ∧ ((∃ offset, c = .logical k offset) ∨ c = .concealed k ∨ c = .stampPair k) := by
  unfold Window.classOf at h
  split at h
  · cases h
  · cases h
  · rename_i used
    refine ⟨used, ?_⟩
    split at h
    · exact .inl ⟨_, (Option.some.inj h).symm⟩
    · split at h
      · exact .inr (.inl (Option.some.inj h).symm)
      · split at h
        · exact .inr (.inr (Option.some.inj h).symm)
        · cases h

/-- The class of an address is one that some window gives it, or ELSEWHERE when none gives it any. -/
theorem classify_cases (s : State) (a : Addr) :
    (∃ k, (s.window k).classOf k a = some (s.classify a)) ∨
      s.classify a = .elsewhere ∧ ∀ k, (s.window k).classOf k a = none := by
  unfold State.classify
  cases h : (List.finRange 16).findSome? fun k => (s.window k).classOf k a with
  | some c =>
    obtain ⟨k, -, hk⟩ := List.exists_of_findSome?_eq_some h
    exact .inl ⟨k, hk⟩
  | none => exact .inr ⟨rfl, fun k => List.findSome?_eq_none_iff.1 h k (List.mem_finRange k)⟩

/-- The class that one window alone gives an address. -/
theorem classify_of_classOf {s : State} {a : Addr} {k : Slot} {c : AddrClass} (h : (s.window k).classOf k a = some c)
    (alone : ∀ j, j ≠ k → (s.window j).classOf j a = none) : s.classify a = c := by
  rcases classify_cases s a with ⟨j, hj⟩ | ⟨-, none⟩
  · obtain rfl : j = k := by
      by_contra hne
      simp [alone j hne] at hj
    exact Option.some.inj (hj.symm.trans h)
  · simp [none k] at h

/-- An address of no class of a slot that is UNUSED. -/
theorem classify_ne_of_unused {s : State} {k : Slot} (h : (s.window k).life = .unused) (a : Addr) (offset : Nat) :
    s.classify a ≠ .logical k offset ∧ s.classify a ≠ .concealed k ∧ s.classify a ≠ .stampPair k := by
  rcases classify_cases s a with ⟨j, hj⟩ | ⟨e, -⟩
  · obtain ⟨used, own⟩ := classOf_eq_some hj
    have ne : j ≠ k := fun e => used (e ▸ h)
    rcases own with ⟨n, e⟩ | e | e <;> rw [e] <;> simp [ne]
  · simp [e]

/-- Settles O19: the record is UNUSED afterwards, and so gives no address a class. -/
theorem clearFreesTheSlot : Obligations.ClearFreesTheSlot := by
  refine fun s slot k hf hk => ⟨fun life => ?_, fun life => ?_⟩
  · have cleared : clearAt k s = (_, .done) := if_pos life
    refine ⟨_, exec_onSlot rfl hf hk cleared rfl, rfl, classify_ne_of_unused ?_⟩
    exact congrArg Window.life (window_setWindow_self s k { s.window k with life := .unused, desc := none })
  · have refused : clearAt k s = (s, .fail .badState) := if_neg life
    exact exec_onSlot rfl hf hk refused rfl

/-- Two regions that hold one address are not disjoint. -/
theorem not_holds_of_disjoint {r t : Region} {a : Addr} (h : r.disjoint t = true) (hr : r.holds a = true) :
    t.holds a = false := by
  simp only [Region.disjoint, Region.holds, Bool.or_eq_true, Bool.and_eq_true, decide_eq_true_eq, Bool.and_eq_false_iff,
    decide_eq_false_iff_not] at *
  omega

/-- The three groups of claimed regions of a valid descriptor hold no address in common. -/
theorem Descriptor.valid.apart {d : Descriptor} (h : d.valid) {a : Addr} :
    (∀ region ∈ d.concealed, region.holds a = true → d.logicalRange.holds a = false) ∧
    ∀ region ∈ d.stampRange, region.holds a = true → d.logicalRange.holds a = false ∧
      ∀ r ∈ d.concealed, r.holds a = false := by
  obtain ⟨-, -, -, -, -, -, -, -, -, -, -, disjoint⟩ := h
  rw [pairwiseDisjoint_iff, Descriptor.claimed, List.cons_append, List.pairwise_cons, List.pairwise_append] at disjoint
  obtain ⟨logical, -, -, cross⟩ := disjoint
  have first : ∀ region ∈ d.concealed ++ d.stampRange, region.holds a = true → d.logicalRange.holds a = false :=
    fun region mem held => not_holds_of_disjoint (Region.disjoint_comm .. ▸ logical region mem) held
  refine ⟨fun region mem => first region (List.mem_append_left _ mem), fun region mem held => ⟨?_, fun r hr => ?_⟩⟩
  · exact first region (List.mem_append_right _ mem) held
  · exact not_holds_of_disjoint (Region.disjoint_comm .. ▸ cross r hr region mem) held

theorem mem_claimed {d : Descriptor} {r : Region} :
    r ∈ d.claimed ↔ r = d.logicalRange ∨ r ∈ d.concealed ∨ r ∈ d.stampRange := by
  simp [Descriptor.claimed]

/-- A window gives no class to an address that none of its claimed regions holds. -/
theorem classOf_eq_none {w : Window} {k : Slot} {a : Addr}
    (h : ∀ d ∈ w.desc, ∀ region ∈ d.claimed, region.holds a = false) : w.classOf k a = none := by
  unfold Window.classOf
  split
  · rfl
  · rfl
  · rename_i d hd _
    have out := h d hd
    rw [if_neg (by simp [out d.logicalRange (mem_claimed.2 (.inl rfl))]),
      if_neg (by simpa [List.any_eq_true] using fun r hr => out r (mem_claimed.2 (.inr (.inl hr)))),
      if_neg (by simpa [List.any_eq_true] using fun r hr => out r (mem_claimed.2 (.inr (.inr hr))))]

/-- The class a window outside UNUSED gives an address, by the group of regions that holds it. -/
theorem classOf_of_desc {w : Window} {d : Descriptor} (used : w.life ≠ .unused) (desc : w.desc = some d) (k : Slot)
    (a : Addr) : w.classOf k a =
      if d.logicalRange.holds a then some (.logical k (a.toNat - d.logicalBase.toNat))
      else if d.concealed.any (·.holds a) then some (.concealed k)
      else if d.stampRange.any (·.holds a) then some (.stampPair k)
      else none := by
  unfold Window.classOf
  cases hl : w.life <;> simp [desc, hl] at used ⊢

/-- Settles O52: the laws leave one claimed region that holds the address, of one window. -/
theorem addressHasOneClass : Obligations.AddressHasOneClass := by
  intro s windows overlap a
  refine ⟨fun k d desc => ?_, fun none => ?_⟩
  · have used : (s.window k).life ≠ .unused := (windows k).desc_iff.1 (by simp [desc])
    obtain ⟨not_logical, alone⟩ := ((windows k).desc_valid d desc).apart (a := a)
    have own := classOf_of_desc used desc k a
    have others : ∀ r ∈ d.claimed, r.holds a = true → ∀ j, j ≠ k → (s.window j).classOf j a = none := by
      refine fun r hr held j hj => classOf_eq_none fun e he t ht => not_holds_of_disjoint ?_ held
      have cross := overlap k j hj.symm d desc e he
      simp only [crossDisjoint, List.all_eq_true] at cross
      exact cross r hr t ht
    refine ⟨fun held => ?_, fun r hr held => ?_, fun r hr held => ?_⟩
    · exact classify_of_classOf (own.trans (if_pos held)) (others _ (mem_claimed.2 (.inl rfl)) held)
    · rw [not_logical r hr held, if_neg (by decide), if_pos (List.any_eq_true.2 ⟨r, hr, held⟩)] at own
      exact classify_of_classOf own (others r (mem_claimed.2 (.inr (.inl hr))) held)
    · obtain ⟨logical, concealed⟩ := alone r hr held
      rw [logical, if_neg (by decide), if_neg (by simpa [List.any_eq_true] using concealed),
        if_pos (List.any_eq_true.2 ⟨r, hr, held⟩)] at own
      exact classify_of_classOf own (others r (mem_claimed.2 (.inr (.inr hr))) held)
  · rcases classify_cases s a with ⟨k, hk⟩ | ⟨e, -⟩
    · simp [classOf_eq_none fun d hd => none k d hd] at hk
    · exact e

end Sys2Proof.Machine
end

section
/-! SUPPORT. What no event but DEFINE, CLEAR, a full reset and a flip moves of a window: descriptor, generation and live bank
(R2, R18). -/
namespace Sys2Proof.Machine

/-- Descriptor, generation and live bank of every window stay. -/
structure Steady (s t : State) : Prop where
  keeps : ∀ k, (t.window k).desc = (s.window k).desc ∧ (t.window k).gen = (s.window k).gen ∧
    (t.window k).live = (s.window k).live

theorem Steady.of_windows {s t : State} (h : t.windows = s.windows) : Steady s t := ⟨fun k => by
  rw [window_congr h k]
  exact ⟨rfl, rfl, rfl⟩⟩

theorem Steady.trans {s t u : State} (h : Steady s t) (h' : Steady t u) : Steady s u := ⟨fun k => by
  obtain ⟨d, g, l⟩ := h.keeps k
  obtain ⟨d', g', l'⟩ := h'.keeps k
  exact ⟨d'.trans d, g'.trans g, l'.trans l⟩⟩

theorem Steady.after {s s' t : State} (h : Steady s' t) (e : s'.windows = s.windows) : Steady s t :=
  (Steady.of_windows e).trans h

/-- A record replaced by one with the same three. -/
theorem Steady.record {s t : State} {k : Slot} {w : Window} (ht : t.windows = (s.setWindow k w).windows)
    (desc : w.desc = (s.window k).desc) (gen : w.gen = (s.window k).gen) (live : w.live = (s.window k).live) :
    Steady s t := ⟨fun j => by
  rw [window_congr ht, window_setWindow]
  split
  · exact ‹j = k› ▸ ⟨desc, gen, live⟩
  · exact ⟨rfl, rfl, rfl⟩⟩

theorem steady_deliver (s : State) (src : Source) : Steady s (s.deliver src) := ⟨fun k => by
  rw [window_deliver]
  rcases receive_cases (s.window k) { source := src, seq := (s.bu.count src).seq src } with e | ⟨-, -, e⟩ <;> rw [e] <;>
    exact ⟨rfl, rfl, rfl⟩⟩

/-! ### Answers, boundaries and trips -/

theorem steady_answerHead (s : State) (p : PortId) (r : PortResponse) : Steady s (s.answerHead p r) :=
  .of_windows (by simp)

theorem steady_complete (s : State) (t : Translated) : Steady s (s.complete t) := by
  rcases complete_cases s t with e | ⟨k, _, _, _, _, _, _, _, e⟩ <;> rw [e]
  · exact .of_windows rfl
  · exact .record rfl rfl rfl rfl

theorem steady_answerClient (s : State) (c : Client) (ans : ClientAnswer) : Steady s (s.answerClient c ans) := by
  cases c with
  | hp =>
    rcases answerHost_cases s ans with e | ⟨t, r, rest, -, -, ⟨w, -, e⟩ | ⟨k, -, e⟩⟩ <;> rw [State.answerClient, e]
    · exact .of_windows rfl
    · split
      · exact (steady_complete s t).trans (steady_answerHead ..)
      · exact steady_answerHead ..
    · exact steady_answerHead ..
  | cp =>
    rcases answerConsumer_cases s ans with e | ⟨t, r, rest, -, -, ⟨w, -, e⟩ | ⟨k, -, e⟩⟩ <;>
      rw [State.answerClient, e] <;> exact .of_windows (by simp)
  | re =>
    rcases answerResync_cases s ans with ⟨-, e⟩ | ⟨-, e⟩ | ⟨-, c, e', rest, -, -, ⟨w, -, e⟩ | ⟨k, -, e⟩⟩ <;>
      rw [State.answerClient, e]
    · exact .of_windows rfl
    · exact .of_windows rfl
    · exact .of_windows rfl
    · exact .record rfl rfl rfl rfl
  | sw => exact .of_windows rfl

theorem steady_endAccess (s : State) (a : Access) (ans : ClientAnswer) : Steady s (s.endAccess a ans) := by
  cases ans with
  | ok w => exact (steady_answerClient s.freed a.client _).after rfl
  | failure kind =>
    exact (steady_answerClient { s.freed with au := s.au.takeFault (faultRecord a kind) } a.client _).after rfl

theorem steady_timeOut (s : State) : Steady s s.timeOut := by
  rcases timeOut_cases s with e | ⟨a, -, -, e⟩ <;> rw [e]
  · exact .of_windows rfl
  · exact steady_endAccess ..

theorem clockRespects_steady : ClockRespects Steady where
  refl _ := .of_windows rfl
  trans := .trans
  sources _ _ _ _ := .of_windows rfl
  filter _ _ := .of_windows rfl
  deliver := steady_deliver
  raise _ _ := .of_windows rfl
  demand s r := .of_windows (windows_tripDemand s r)

theorem steady_tick (s : State) : Steady s s.tick := by
  refine Steady.trans ?_ (clockRespects_steady.tick s)
  rcases clockMemory_cases { s with choices := s.choices + 1 } with ⟨-, e⟩ | ⟨a, -, ⟨-, e⟩ | ⟨-, e⟩⟩ <;> rw [e]
  · exact .of_windows rfl
  · exact .of_windows rfl
  · exact (steady_timeOut { s with choices := s.choices + 1 }).after rfl

/-! ### Ports, and the bridge's own events -/

theorem steady_carryOut (s : State) (p : PortId) (a : Addr) (tr : Translation) : Steady s (s.carryOut p a tr) := by
  cases tr with
  | access t =>
    have staged : Steady s (s.stageFor t a) := by
      unfold State.stageFor
      split
      · split
        · exact .record rfl rfl rfl rfl
        · exact .of_windows rfl
      · exact .of_windows rfl
    exact staged.trans (.of_windows (windows_request (s.stageFor t a) p t))
  | refuse r => exact .of_windows (windows_refuseHead s p a r)
  | fill w => exact .of_windows (windows_answerHead s p _)
  | park e => exact .of_windows (windows_setPort s p _)

theorem respects_steady : Respects Steady where
  refl _ := .of_windows rfl
  link _ _ := .of_windows rfl
  answer s p r _ := steady_answerHead s p r
  carry s p a tr _ := steady_carryOut s p a tr
  issue s a n := .of_windows (windows_issue s a n)
  ended s a ans := steady_endAccess s a.access ans
  inFlight _ _ := .of_windows rfl
  count := clockRespects_steady.countStep
  line s l := (clockRespects_steady.sampleLine { s with pins := { s.pins with bnd := l } }).after rfl
  watch := clockRespects_steady.watchCount
  trip s l := (clockRespects_steady.sampleTrip { s with pins := { s.pins with trp := l } }).after rfl

/-! ### Owners -/

theorem steady_onSlot {slot : Byte} {act : Slot → State → State × Reply} {s : State}
    (h : ∀ k, Steady s (act k s).1) : Steady s (onSlot slot act s).1 := by
  rcases onSlot_cases slot act s with ⟨-, e⟩ | ⟨k, -, e⟩ <;> rw [e]
  · exact .of_windows rfl
  · exact h k

theorem steady_onParam {α : Type} {operand : Option α} {act : α → State → State × Reply} {s : State}
    (h : ∀ x, Steady s (act x s).1) : Steady s (onParam operand act s).1 := by
  rcases onParam_cases operand act s with ⟨-, e⟩ | ⟨x, -, e⟩ <;> rw [e]
  · exact .of_windows rfl
  · exact h x

theorem steady_enableAt (k : Slot) (s : State) : Steady s (enableAt k s).1 := by
  unfold enableAt; dsimp only; split
  · exact .record (k := k) rfl rfl rfl rfl
  · exact .of_windows rfl

theorem steady_disableAt (k : Slot) (s : State) : Steady s (disableAt k s).1 := by
  unfold disableAt; dsimp only; split
  · exact .record (k := k) rfl rfl rfl rfl
  · exact .of_windows rfl

theorem steady_holdAt (k : Slot) (s : State) : Steady s (holdAt k s).1 := by
  unfold holdAt; dsimp only; split
  · exact .record (k := k) rfl rfl rfl rfl
  · exact .of_windows rfl

theorem steady_releaseAt (k : Slot) (s : State) : Steady s (releaseAt k s).1 := by
  unfold releaseAt; dsimp only; split
  · exact .record (k := k) rfl rfl rfl rfl
  · exact .of_windows rfl

theorem steady_abortAt (k : Slot) (s : State) : Steady s (abortAt k s).1 := by
  unfold abortAt; dsimp only; split
  · exact .record (k := k) rfl rfl rfl rfl
  · exact .of_windows rfl

theorem windows_setTimer (x : TimerSettings) (s : State) : (setTimer x s).1.windows = s.windows := by
  unfold setTimer; dsimp only; split
  · split <;> rfl
  · rfl

theorem windows_startTimer (s : State) : (startTimer s).1.windows = s.windows := by unfold startTimer; split <;> rfl

theorem windows_releaseTrip (s : State) : (releaseTrip s).1.windows = s.windows := by unfold releaseTrip; split <;> rfl

theorem windows_readFault (s : State) : (readFault s).1.windows = s.windows := by unfold readFault; split <;> rfl

theorem windows_readRefusal (s : State) : (readRefusal s).1.windows = s.windows := by unfold readRefusal; split <;> rfl

theorem windows_answerNop (padding : List Byte) (s : State) : (answerNop padding s).1.windows = s.windows := by
  unfold answerNop; split <;> rfl

/-- Every owner but those of DEFINE and CLEAR leaves the three. -/
theorem steady_of_ownerOf {c : Instr} {act : State → State × Reply} (h : ownerOf c = some act)
    (define : ∀ o, c ≠ .define o) (clear : ∀ slot, c ≠ .clear slot) (s : State) : Steady s (act s).1 := by
  cases c <;> cases h
  case define o => exact absurd rfl (define o)
  case clear slot => exact absurd rfl (clear slot)
  case enable => exact steady_onSlot fun k => steady_enableAt k s
  case disable => exact steady_onSlot fun k => steady_disableAt k s
  case hold => exact steady_onSlot fun k => steady_holdAt k s
  case release => exact steady_onSlot fun k => steady_releaseAt k s
  case abort => exact steady_onSlot fun k => steady_abortAt k s
  case queryWindow => exact steady_onSlot fun _ => .of_windows rfl
  case forceBoundary => exact steady_onParam fun src => steady_deliver s src
  case ptSet => exact steady_onParam fun x => .of_windows (windows_setTimer x s)
  case lineSet | watchSet | tripSet | memorySet => exact steady_onParam fun _ => .of_windows rfl
  case nop padding => exact .of_windows (windows_answerNop padding s)
  case ptStart => exact .of_windows (windows_startTimer s)
  case tripNow => exact .of_windows (windows_tripDemand s _)
  case tripRelease => exact .of_windows (windows_releaseTrip s)
  case readFault => exact .of_windows (windows_readFault s)
  case readRefusal => exact .of_windows (windows_readRefusal s)
  all_goals exact .of_windows rfl

/-- DEFINE and CLEAR leave every record but that of their slot. -/
theorem windows_define_clear {c : Instr} {act : State → State × Reply} (h : ownerOf c = some act) {slot : Byte}
    (hc : (∃ o, c = .define o ∧ slot = o.slot) ∨ c = .clear slot) {k : Slot} (hk : slot.toNat ≠ k.val) (s : State) :
    ((act s).1.window k) = s.window k := by
  have other : ∀ {j : Slot} {w : Window}, slot.toNat = j.val → (s.setWindow j w).window k = s.window k :=
    fun hj => window_setWindow_ne s _ fun e => hk (e ▸ hj)
  rcases hc with ⟨o, rfl, rfl⟩ | rfl <;> cases h
  · rcases onSlot_cases o.slot (defineAt o) s with ⟨-, e⟩ | ⟨j, hj, e⟩ <;> rw [e]
    unfold defineAt
    dsimp only
    split
    · rfl
    · split
      · rfl
      · split
        · rfl
        · exact other hj
  · rcases onSlot_cases slot clearAt s with ⟨-, e⟩ | ⟨j, hj, e⟩ <;> rw [e]
    unfold clearAt
    dsimp only
    split
    · exact other hj
    · rfl

/-- CLEAR keeps the generation and the live bank of its slot's record. -/
theorem gen_live_clear (slot : Byte) (s : State) (k : Slot) : ((onSlot slot clearAt s).1.window k).gen = (s.window k).gen ∧
    ((onSlot slot clearAt s).1.window k).live = (s.window k).live := by
  rcases onSlot_cases slot clearAt s with ⟨-, e⟩ | ⟨j, hj, e⟩ <;> rw [e]
  · exact ⟨rfl, rfl⟩
  · unfold clearAt
    dsimp only
    split
    · rw [window_setWindow]
      split
      · exact ‹k = j› ▸ ⟨rfl, rfl⟩
      · exact ⟨rfl, rfl⟩
    · exact ⟨rfl, rfl⟩

/-! ### A boundary taken -/

theorem window_flip (s : State) (k : Slot) (d : Descriptor) (seq : BitVec 32) (j : Slot) :
    (s.flip k d seq).window j = if j = k then (s.window k).flipped d else s.window j :=
  window_setWindow s j k _

/-- A boundary taken leaves the three of every window, or flips its own, whose update is COMPLETE. -/
theorem takeBoundary_steady_or_flips (s : State) (k : Slot) : Steady s (s.takeBoundary k) ∨
    (s.window k).phase = .complete ∧ ((s.takeBoundary k).window k).desc = (s.window k).desc ∧
      ((s.takeBoundary k).window k).gen = (s.window k).gen + 1 ∧
      ((s.takeBoundary k).window k).live = (s.window k).live.other ∧
      ∀ j, j ≠ k → (s.takeBoundary k).window j = s.window j := by
  rcases takeBoundary_cases s k with e | ⟨b, rest, d, -, -, ⟨-, e⟩ | ⟨-, e⟩⟩ <;> rw [e]
  · exact .inl (.of_windows rfl)
  · exact .inl (.record rfl rfl rfl rfl)
  · generalize hw : ({ s.window k with inbox := rest, cadenceCount := 0 } : Window) = w
    have start : Steady s (s.setWindow k w) := .record rfl (hw ▸ rfl) (hw ▸ rfl) (hw ▸ rfl)
    have restored : Steady s ((s.setWindow k w).restore k) := start.trans (.of_windows (by simp))
    rcases eligible_cases (s.setWindow k w) k d b.seq with ⟨-, e⟩ | ⟨complete, -, e⟩ | ⟨-, -, e⟩ <;> rw [e]
    · exact .inl restored
    · obtain ⟨desc, gen, live⟩ := restored.keeps k
      rw [window_setWindow_self, ← hw] at complete
      refine .inr ⟨complete, ?_, ?_, ?_, fun j hj => ?_⟩
      · rw [window_flip, if_pos rfl]
        exact desc
      · rw [window_flip, if_pos rfl]
        exact congrArg (· + 1) gen
      · rw [window_flip, if_pos rfl]
        exact congrArg Bank.other live
      · rw [window_flip, if_neg hj, window_restore, window_setWindow_ne s w hj]
    · exact .inl (restored.trans (.record (k := k) rfl rfl rfl rfl))

/-! ### The statement -/

theorem window_softReset (s : State) (k : Slot) : s.softReset.window k = (s.window k).softReset :=
  window_map s Window.softReset k

theorem steady_softReset (s : State) : Steady s s.softReset := ⟨fun k => by
  rw [window_softReset]
  by_cases h : (s.window k).life = .unused
  · rw [softReset_of_unused h]
    exact ⟨rfl, rfl, rfl⟩
  · rw [softReset_of_used h]
    exact ⟨rfl, rfl, rfl⟩⟩

/-- Where a command of the link may move the three at a slot: DEFINE and CLEAR of it. -/
theorem owner_moves {c : Instr} {act : State → State × Reply} (hact : ownerOf c = some act) (s : State) (k : Slot) :
    let t := s.takeCommand c act
    ((t.window k).desc = (s.window k).desc ∨ (∃ o, c = .define o ∧ o.slot.toNat = k.val) ∨
      ∃ slot, c = .clear slot ∧ slot.toNat = k.val) ∧
    (((t.window k).gen = (s.window k).gen ∧ (t.window k).live = (s.window k).live) ∨
      ∃ o, c = .define o ∧ o.slot.toNat = k.val) := by
  intro t
  have window_t : t.window k = s.window k ∨ t.window k = (act s).1.window k := by
    rcases takeCommand_cases s c act with e | ⟨ml, e, -⟩
    · exact .inl (window_congr (congrArg State.windows e) k)
    · exact .inr (window_congr (congrArg State.windows e) k)
  rcases window_t with e | e
  · rw [e]
    exact ⟨.inl rfl, .inl ⟨rfl, rfl⟩⟩
  rw [e]
  by_cases defines : ∃ o, c = .define o
  · obtain ⟨o, rfl⟩ := defines
    by_cases hk : o.slot.toNat = k.val
    · exact ⟨.inr (.inl ⟨o, rfl, hk⟩), .inr ⟨o, rfl, hk⟩⟩
    · rw [windows_define_clear hact (.inl ⟨o, rfl, rfl⟩) hk]
      exact ⟨.inl rfl, .inl ⟨rfl, rfl⟩⟩
  by_cases clears : ∃ slot, c = .clear slot
  · obtain ⟨slot, rfl⟩ := clears
    refine ⟨?_, .inl ?_⟩
    · by_cases hk : slot.toNat = k.val
      · exact .inr (.inr ⟨slot, rfl, hk⟩)
      · exact .inl (congrArg _ (windows_define_clear hact (.inr rfl) hk s))
    · cases hact
      exact gen_live_clear slot s k
  push Not at defines clears
  obtain ⟨desc, gen, live⟩ := (steady_of_ownerOf hact defines clears s).keeps k
  exact ⟨.inl desc, .inl ⟨gen, live⟩⟩

/-- Settles O21: owners but those of DEFINE and CLEAR, the soft reset and every event but a flip are steady. -/
theorem descriptorsAndGenerationsAreKept : Obligations.DescriptorsAndGenerationsAreKept := by
  refine ⟨fun c s t k wf h => ?_, fun s t k empty h => ?_⟩
  · suffices moves : Steady s t ∨ _ from moves.elim (fun steady => ⟨.inl (steady.keeps k).1, .inl (steady.keeps k).2⟩) id
    rcases command_cases c with rfl | ⟨act, hact⟩ | ⟨x, rfl⟩ | ⟨bits, rfl⟩ | ⟨body, reset, frame⟩
    · refine .inl ?_
      rw [← next_inj h]
      split
      · exact .of_windows rfl
      · exact (steady_softReset s).trans (.of_windows rfl)
    · obtain rfl := next_inj ((exec_of_owner hact s).symm.trans h)
      obtain ⟨desc, rest⟩ := owner_moves hact s k
      exact .inr ⟨desc.imp_right fun h => h.imp_right .inl, rest.imp_right .inl⟩
    · exact .inr ⟨.inr (.inr (.inr ⟨x, rfl⟩)), .inr (.inr (.inl ⟨x, rfl⟩))⟩
    · refine .inl ?_
      rcases exec_frameNotTaken_cases bits s with ⟨ml, e⟩ | ⟨c, taken, -⟩
      · rw [← next_inj (e.symm.trans h)]
        exact .of_windows rfl
      · simp [Instr.wellFormed, frameFails, taken] at wf
    · by_cases boundary : ∃ j, c = .windowTakeBoundary j
      · obtain ⟨j, rfl⟩ := boundary
        obtain rfl := next_inj h
        rcases takeBoundary_steady_or_flips s j with steady | ⟨phase, desc, gen, live, other⟩
        · exact .inl steady
        · by_cases hk : k = j
          · subst hk
            exact .inr ⟨.inl desc, .inr (.inr (.inr ⟨rfl, phase, gen, live⟩))⟩
          · rw [other k hk]
            exact .inr ⟨.inl rfl, .inl ⟨rfl, rfl⟩⟩
      · push Not at boundary
        obtain ⟨u, e, steady⟩ := respects_steady.exec body reset frame s
          (fun p r _ => .of_windows (windows_setPort s p _)) fun j e => absurd e (boundary j)
        obtain rfl := next_inj (e.symm.trans h)
        exact .inl steady
  · rw [step, empty] at h
    obtain rfl := next_inj h
    exact (steady_tick s).keeps k

end Sys2Proof.Machine
end

section
/-! SUPPORT. The boundary unit (chapter 8): settings in and out of range, count steps and whole periods, samples of BND and
watch steps. -/
namespace Sys2Proof.Machine

/-- A command with checked operands is answered as its owner answers what they read as. -/
theorem exec_onParam {α : Type} {c : Instr} {operand : Option α} {x : α} {act : α → State → State × Reply} {s t : State}
    {r : Reply} (harm : exec c s = .next (s.takeCommand c (onParam operand act))) (hf : s.ml.frame ≠ .discarding)
    (read : operand = some x) (hact : act x s = (t, r)) (hml : t.ml = s.ml) :
    exec c s = .next (t.answered c r.status.code r.data) :=
  exec_answered harm hf ((onParam_of_some read act s).trans hact) hml

theorem refuses_badParam {α : Type} {c : Instr} {operand : Option α} {act : α → State → State × Reply} {s : State}
    (harm : exec c s = .next (s.takeCommand c (onParam operand act))) (hf : s.ml.frame ≠ .discarding)
    (read : operand = none) : Refuses c s 0x22#8 :=
  exec_answered harm hf (onParam_of_none read act s) rfl

/-! ### FORCE BOUNDARY (R141) -/

theorem sourceOf_of_code {b : Byte} {src : Source} (h : b.toNat = src.code) : sourceOf b = some src := by
  cases src <;> simp [sourceOf, h, Source.code]

theorem sourceOf_of_large {b : Byte} (h : 1 < b.toNat) : sourceOf b = none := by
  unfold sourceOf
  split
  · omega
  · omega
  · rfl

/-- Settles O22: a source delivers one boundary; the windows that receive it are those in service that count it. -/
theorem forcedBoundaryIsDelivered : Obligations.ForcedBoundaryIsDelivered := by
  refine fun s operand hf => ⟨fun src code => ?_, fun large => refuses_badParam rfl hf (sourceOf_of_large large)⟩
  refine ⟨_, exec_onParam rfl hf (sourceOf_of_code code) (t := s.deliver src) (r := .done) rfl rfl, rfl, rfl, ?_, fun k => ?_⟩
  · cases src <;> rfl
  · show (s.deliver src).window k = _
    rw [window_deliver, Window.receive]
    simp only [receives_iff, inService_iff]
    cases src <;> rfl

/-! ### LINE SET and WATCH SET (R133, R139) -/

theorem filterSettingsOf_of_range {e d : Byte} (he : e.toNat ≤ 7)
    (hd : d.toNat = 1 ∨ d.toNat = 4 ∨ d.toNat = 8 ∨ d.toNat = 16) : filterSettingsOf e d = some (e.toNat, d.toNat) := by
  simp only [filterSettingsOf, exponentOf_of_le he, depthOf, if_pos hd]

theorem filterSettingsOf_eq_none {e d : Byte}
    (h : ¬ (e.toNat ≤ 7 ∧ (d.toNat = 1 ∨ d.toNat = 4 ∨ d.toNat = 8 ∨ d.toNat = 16))) : filterSettingsOf e d = none := by
  unfold filterSettingsOf
  by_cases he : e.toNat ≤ 7
  · have hd : depthOf d = none := if_neg fun hd => h ⟨he, hd⟩
    rw [hd]
    split <;> simp_all
  · rw [exponentOf_of_large (by omega)]

theorem watchOf_of_range {en e trip : Byte} {mn mx : BitVec 16} (he : e.toNat ≤ 7) (pos : mn ≠ 0) (lt : mn.toNat < mx.toNat) :
    watchOf en e mn mx trip = some {
      enable := en.getLsbD 0, exponent := e.toNat, min := mn.toNat, max := mx.toNat, tripOnLost := trip.getLsbD 0,
      count := 0, prescale := 0, first := true, history := [] } := by
  have pos' : mn.toNat ≠ 0 := fun no => pos (BitVec.eq_of_toNat_eq no)
  simp only [watchOf, exponentOf_of_le he, if_neg (not_or.2 ⟨pos', Nat.not_le.2 lt⟩)]

theorem watchOf_eq_none {en e trip : Byte} {mn mx : BitVec 16} (h : ¬ (e.toNat ≤ 7 ∧ mn ≠ 0 ∧ mn.toNat < mx.toNat)) :
    watchOf en e mn mx trip = none := by
  unfold watchOf
  by_cases he : e.toNat ≤ 7
  · have bad : mn.toNat = 0 ∨ mx.toNat ≤ mn.toNat := by
      by_contra no
      obtain ⟨pos, lt⟩ := not_or.1 no
      exact h ⟨he, fun zero => pos (by simp [zero]), Nat.not_le.1 lt⟩
    simp only [exponentOf_of_le he, if_pos bad]
  · rw [exponentOf_of_large (by omega)]

/-- Settles O25: operands in range read as the settings they spell. -/
theorem lineSetAndWatchSetRestart : Obligations.LineSetAndWatchSetRestart := by
  refine fun s hf => ⟨fun e d => ⟨fun ⟨he, hd⟩ => ?_, fun bad => ?_⟩, fun en e trip mn mx =>
    ⟨fun ⟨he, pos, lt⟩ => ?_, fun bad => ?_⟩⟩
  · exact exec_onParam rfl hf (filterSettingsOf_of_range he hd) (r := .done) rfl rfl
  · exact refuses_badParam rfl hf (filterSettingsOf_eq_none bad)
  · exact exec_onParam rfl hf (watchOf_of_range he pos lt) (r := .done) rfl rfl
  · exact refuses_badParam rfl hf (watchOf_eq_none bad)

/-! ### Count steps (R126, R127) -/

namespace PeriodTimer
variable {pt : PeriodTimer}

theorem step_saw_counts (mode : pt.mode = .saw) (h : pt.count < pt.period) :
    pt.step = ({ pt with count := pt.count + 1, prescale := 0 }, false) := by simp [step, mode, sawStep, h]

theorem step_saw_wraps (mode : pt.mode = .saw) (h : pt.count = pt.period) :
    pt.step = ({ pt with period := pt.pendingPeriod.getD pt.period, pendingPeriod := none, count := 0, prescale := 0 },
      true) := by simp [step, mode, sawStep, h, takePending]

theorem step_tri_rises (mode : pt.mode = .tri) (dir : pt.direction = .up) (h : pt.count + 1 < pt.period) :
    pt.step = ({ pt with count := pt.count + 1, prescale := 0 }, false) := by simp [step, mode, triStep, dir, h]

theorem step_tri_peaks (mode : pt.mode = .tri) (dir : pt.direction = .up) (h : pt.count + 1 = pt.period) :
    pt.step = ({ pt with count := pt.period, direction := .down, prescale := 0 }, decide (pt.selection ≠ .trough)) := by
  simp [step, mode, triStep, dir, h]

theorem step_tri_falls (mode : pt.mode = .tri) (dir : pt.direction = .down) (h : 1 < pt.count) :
    pt.step = ({ pt with count := pt.count - 1, prescale := 0 }, false) := by simp [step, mode, triStep, dir, h]

theorem step_tri_troughs (mode : pt.mode = .tri) (dir : pt.direction = .down) (h : pt.count = 1) :
    pt.step = ({ pt with
      period := pt.pendingPeriod.getD pt.period, pendingPeriod := none, count := 0, direction := .up, prescale := 0 },
      decide (pt.selection ≠ .peak)) := by simp [step, mode, triStep, dir, h, takePending]

end PeriodTimer

/-- A count step of a running timer, by what the timer's own step gives. -/
theorem countStep_of_step {s : State} (running : s.bu.pt.running = true) {pt : PeriodTimer} {turns : Bool}
    (h : s.bu.pt.step = (pt, turns)) : s.countStep =
      if turns then ({ s with bu := { s.bu with pt := pt } } : State).deliver .pt else { s with bu := { s.bu with pt := pt } } := by
  simp [State.countStep, running, h]

theorem exec_ptCountStep {s : State} (running : s.bu.pt.running = true) {pt : PeriodTimer} {turns : Bool}
    (h : s.bu.pt.step = (pt, turns)) : exec .ptCountStep s = .next
      (if turns then ({ s with bu := { s.bu with pt := pt } } : State).deliver .pt else { s with bu := { s.bu with pt := pt } }) :=
  congrArg Host.Outcome.next (countStep_of_step running h)

/-- Settles O26: the timer's step, row by row. -/
theorem countStepFollowsTheMode : Obligations.CountStepFollowsTheMode := by
  intro s running
  refine ⟨fun mode => ⟨fun lt => ?_, fun eq => ?_⟩, fun mode => ⟨fun dir lt => ?_, fun dir eq => ?_, fun dir lt => ?_,
    fun dir eq => ?_⟩⟩
  · exact exec_ptCountStep running (PeriodTimer.step_saw_counts mode lt)
  · exact exec_ptCountStep running (PeriodTimer.step_saw_wraps mode eq)
  · exact exec_ptCountStep running (PeriodTimer.step_tri_rises mode dir lt)
  · refine (exec_ptCountStep running (PeriodTimer.step_tri_peaks mode dir eq)).trans ?_
    exact congrArg Host.Outcome.next (if_congr (by cases s.bu.pt.selection <;> decide) rfl rfl)
  · exact exec_ptCountStep running (PeriodTimer.step_tri_falls mode dir lt)
  · refine (exec_ptCountStep running (PeriodTimer.step_tri_troughs mode dir eq)).trans ?_
    exact congrArg Host.Outcome.next (if_congr (by cases s.bu.pt.selection <;> decide) rfl rfl)

/-! ### Whole periods -/

theorem runCommands_replicate (n : Nat) (s : State) :
    runCommands (List.replicate n .ptCountStep) s = some (State.countStep^[n] s) := by
  induction n generalizing s with
  | zero => rfl
  | succ n ih => exact ih s.countStep

/-- The timer and its boundary counter after some count steps, at whatever prescale count. -/
def State.TimerAt (s : State) (n : Nat) (pt : PeriodTimer) (seq : BitVec 32) : Prop :=
  (∃ p, (State.countStep^[n] s).bu.pt = { pt with prescale := p }) ∧ (State.countStep^[n] s).bu.ptSeq = seq

/-- One step more. -/
theorem State.TimerAt.step {s : State} {n : Nat} {pt pt' : PeriodTimer} {seq : BitVec 32} {turns : Bool}
    (h : s.TimerAt n pt seq) (running : pt.running = true)
    (next : ∀ p, ({ pt with prescale := p } : PeriodTimer).step = ({ pt' with prescale := 0 }, turns)) :
    s.TimerAt (n + 1) pt' (if turns then seq + 1 else seq) := by
  obtain ⟨⟨p, timer⟩, rfl⟩ := h
  have stepped := countStep_of_step (s := State.countStep^[n] s) (by rw [timer]; exact running) (timer ▸ next p)
  rw [State.TimerAt, Function.iterate_succ_apply', stepped]
  cases turns <;> exact ⟨⟨0, rfl⟩, rfl⟩

/-- A timer that rises for some steps delivers nothing: a SAW timer up to P, a TRI timer to just below it. -/
theorem State.TimerAt.rises {s : State} {n : Nat} {pt : PeriodTimer} {seq : BitVec 32} (h : s.TimerAt n pt seq)
    (running : pt.running = true) (m : Nat)
    (room : pt.mode = .saw ∧ pt.count + m ≤ pt.period ∨
      pt.mode = .tri ∧ pt.direction = .up ∧ (m = 0 ∨ pt.count + m < pt.period)) :
    s.TimerAt (n + m) { pt with count := pt.count + m } seq := by
  induction m with
  | zero => exact h
  | succ m ih =>
    refine (ih ?_).step running (turns := false) fun p => ?_
    · exact room.imp (fun ⟨mode, le⟩ => ⟨mode, by omega⟩) fun ⟨mode, dir, lt⟩ => ⟨mode, dir, by omega⟩
    · rcases room with ⟨mode, le⟩ | ⟨mode, dir, lt⟩
      · exact PeriodTimer.step_saw_counts mode (Nat.lt_of_succ_le le)
      · exact PeriodTimer.step_tri_rises mode dir (lt.resolve_left (Nat.succ_ne_zero m))

/-- A TRI timer that falls for some steps, to 1 at the lowest, delivers nothing. -/
theorem State.TimerAt.falls {s : State} {n : Nat} {pt : PeriodTimer} {seq : BitVec 32} (h : s.TimerAt n pt seq)
    (running : pt.running = true) (mode : pt.mode = .tri) (dir : pt.direction = .down) (m : Nat) (room : m < pt.count) :
    s.TimerAt (n + m) { pt with count := pt.count - m } seq := by
  induction m with
  | zero => exact h
  | succ m ih =>
    exact (ih (Nat.lt_of_succ_lt room)).step running (turns := false) fun p =>
      PeriodTimer.step_tri_falls mode dir (by show 1 < pt.count - m; omega)

/-- The turns: a SAW timer at P wraps; a TRI timer below P peaks, and at 1 ends in its trough. -/
theorem State.TimerAt.wraps {s : State} {n : Nat} {pt : PeriodTimer} {seq : BitVec 32} (h : s.TimerAt n pt seq)
    (running : pt.running = true) (mode : pt.mode = .saw) (top : pt.count = pt.period) :
    s.TimerAt (n + 1) { pt with period := pt.pendingPeriod.getD pt.period, pendingPeriod := none, count := 0 }
      (seq + 1) :=
  h.step running (turns := true) fun p => PeriodTimer.step_saw_wraps (pt := { pt with prescale := p }) mode top

theorem State.TimerAt.peaks {s : State} {n : Nat} {pt : PeriodTimer} {seq : BitVec 32} (h : s.TimerAt n pt seq)
    (running : pt.running = true) (mode : pt.mode = .tri) (dir : pt.direction = .up) (top : pt.count + 1 = pt.period) :
    s.TimerAt (n + 1) { pt with count := pt.period, direction := .down }
      (if decide (pt.selection ≠ .trough) then seq + 1 else seq) :=
  h.step running fun p => PeriodTimer.step_tri_peaks (pt := { pt with prescale := p }) mode dir top

theorem State.TimerAt.troughs {s : State} {n : Nat} {pt : PeriodTimer} {seq : BitVec 32} (h : s.TimerAt n pt seq)
    (running : pt.running = true) (mode : pt.mode = .tri) (dir : pt.direction = .down) (bottom : pt.count = 1) :
    s.TimerAt (n + 1)
      { pt with period := pt.pendingPeriod.getD pt.period, pendingPeriod := none, count := 0, direction := .up }
      (if decide (pt.selection ≠ .peak) then seq + 1 else seq) :=
  h.step running fun p => PeriodTimer.step_tri_troughs (pt := { pt with prescale := p }) mode dir bottom

/-- Settles O27: a SAW period rises to P and wraps; a TRI period rises, peaks, falls and ends in its trough. -/
theorem onePeriodDeliversItsBoundaries : Obligations.OnePeriodDeliversItsBoundaries := by
  intro s running zero up
  have start : s.TimerAt 0 s.bu.pt s.bu.ptSeq := ⟨⟨_, rfl⟩, rfl⟩
  refine ⟨fun mode => ?_, fun mode pos => ?_⟩
  · have top := start.rises running s.bu.pt.period (.inl ⟨mode, by omega⟩)
    have wrapped := top.wraps running mode (by show s.bu.pt.count + s.bu.pt.period = s.bu.pt.period; omega)
    rw [Nat.zero_add] at wrapped
    obtain ⟨⟨p, timer⟩, seq⟩ := wrapped
    refine ⟨_, runCommands_replicate _ s, ?_⟩
    rw [timer, seq]
    exact ⟨rfl, rfl, rfl, rfl⟩
  · have below := start.rises running (s.bu.pt.period - 1) (.inr ⟨mode, up, by omega⟩)
    have peak := below.peaks running mode up (by show s.bu.pt.count + (s.bu.pt.period - 1) + 1 = s.bu.pt.period; omega)
    have low := peak.falls running mode rfl (s.bu.pt.period - 1) (by show _ < s.bu.pt.period; omega)
    have trough := low.troughs running mode rfl (by show s.bu.pt.period - _ = 1; omega)
    have steps : 0 + (s.bu.pt.period - 1) + 1 + (s.bu.pt.period - 1) + 1 = 2 * s.bu.pt.period := by omega
    rw [steps] at trough
    obtain ⟨⟨p, timer⟩, seq⟩ := trough
    refine ⟨_, runCommands_replicate _ s, ?_⟩
    rw [timer, seq]
    refine ⟨rfl, rfl, rfl, rfl, ?_⟩
    cases s.bu.pt.selection <;> simp [BitVec.add_assoc]

/-! ### Samples of BND (R132, R134, R137) -/

theorem sample_agrees {f : Filter} {l : Level} (h : l = f.level) : f.sample l = { f with run := 0, prescale := 0 } := if_pos h

theorem sample_counts {f : Filter} {l : Level} (h : l ≠ f.level) (lt : f.run + 1 < f.depth) :
    f.sample l = { f with run := f.run + 1, prescale := 0 } := (if_neg h).trans (if_pos lt)

theorem sample_moves {f : Filter} {l : Level} (h : l ≠ f.level) (ge : f.depth ≤ f.run + 1) :
    f.sample l = { f with level := l, run := 0, prescale := 0 } := (if_neg h).trans (if_neg (Nat.not_lt.2 ge))

theorem exec_lineSample_quiet {s : State} {l : Level} (h : ¬ s.bu.line.rises l = true) : exec (.lineSample l) s = .next
    { s with pins := { s.pins with bnd := l }, bu := { s.bu with line := s.bu.line.sample l } } :=
  congrArg Host.Outcome.next (if_neg h)

theorem exec_lineSample_edge {s : State} {l : Level} (h : s.bu.line.rises l = true) : exec (.lineSample l) s = .next
    ({ s with pins := { s.pins with bnd := l }, bu := { s.bu with line := s.bu.line.sample l } } : State).bxEdge :=
  congrArg Host.Outcome.next (if_pos h)

/-- An accepted edge is delivered, an early one raises its cause. -/
theorem bxEdge_of_accepts {s : State} {w : Watch} (judged : s.bu.watch.edge = w) (h : s.bu.watch.accepts = true) :
    s.bxEdge = ({ s with bu := { s.bu with watch := w } } : State).deliver .bx := judged ▸ if_pos h

theorem bxEdge_of_early {s : State} {w : Watch} (judged : s.bu.watch.edge = w) (h : ¬ s.bu.watch.accepts = true) :
    s.bxEdge = ({ s with bu := { s.bu with watch := w } } : State).raise .earlyBoundary := judged ▸ if_neg h

namespace Watch
variable {w : Watch}

theorem edge_disabled (h : w.enable = false) : w.edge = w ∧ w.accepts = true := by simp [edge, accepts, h]

theorem edge_first (h : w.enable = true) (first : w.first = true) :
    w.edge = { w with count := 0, prescale := 0, first := false } ∧ w.accepts = true := by simp [edge, accepts, h, first]

theorem edge_early (h : w.enable = true) (first : w.first = false) (lt : w.count < w.min) :
    w.edge = w ∧ ¬ w.accepts = true := by simp [edge, accepts, h, first, lt]

theorem edge_accepted (h : w.enable = true) (first : w.first = false) (le : w.min ≤ w.count) :
    w.edge = { w with count := 0, prescale := 0, history := lastEight (w.history ++ [w.count]) } ∧ w.accepts = true :=
  ⟨by simp only [edge, h, first, if_neg (Nat.not_lt.2 le)]; rfl, by simp [accepts, le]⟩

end Watch

/-- Settles O28: the filter's three cases; at a rise the watch judges by its state. -/
theorem lineSampleFiltersAndJudgesEdges : Obligations.LineSampleFiltersAndJudgesEdges := by
  refine fun s l => ⟨fun agrees => ?_, fun differs counts => ?_, fun differs moves => ⟨fun low => ?_, fun high => ?_⟩⟩
  · have quiet : ¬ s.bu.line.rises l = true := fun rise => by
      obtain ⟨low, high, -⟩ := rises_iff.1 rise
      rw [low, high] at agrees
      cases agrees
    rw [exec_lineSample_quiet quiet, sample_agrees agrees]
  · have quiet : ¬ s.bu.line.rises l = true := fun rise => by
      obtain ⟨-, -, ge⟩ := rises_iff.1 rise
      omega
    rw [exec_lineSample_quiet quiet, sample_counts differs counts]
  · have quiet : ¬ s.bu.line.rises l = true := fun rise => by
      obtain ⟨-, high, -⟩ := rises_iff.1 rise
      rw [low] at high
      cases high
    rw [exec_lineSample_quiet quiet, sample_moves differs moves]
  · have level : s.bu.line.level = .low := by
      cases hl : s.bu.line.level with
      | low => rfl
      | high => exact absurd (high.trans hl.symm) differs
    have edge := exec_lineSample_edge (rises_iff.2 ⟨level, high, moves⟩)
    rw [sample_moves differs moves] at edge
    refine ⟨fun en => ?_, fun en first => ?_, fun en first lt => ?_, fun en first le => ?_⟩
    · obtain ⟨judged, accepted⟩ := Watch.edge_disabled en
      exact edge.trans (congrArg Host.Outcome.next (bxEdge_of_accepts judged accepted))
    · obtain ⟨judged, accepted⟩ := Watch.edge_first en first
      exact edge.trans (congrArg Host.Outcome.next (bxEdge_of_accepts judged accepted))
    · obtain ⟨judged, early⟩ := Watch.edge_early en first lt
      exact edge.trans (congrArg Host.Outcome.next (bxEdge_of_early judged early))
    · obtain ⟨judged, accepted⟩ := Watch.edge_accepted en first le
      exact edge.trans (congrArg Host.Outcome.next (bxEdge_of_accepts judged accepted))

/-! ### Watch steps (R136) -/

theorem counting_iff {w : Watch} : w.counting = true ↔ w.enable = true ∧ w.first = false := by simp [Watch.counting]

/-- Settles O29: a counting watch counts below MAX, and loses the boundary at it. -/
theorem watchStepCountsOrLosesTheBoundary : Obligations.WatchStepCountsOrLosesTheBoundary := by
  refine fun s => ⟨fun rests => ?_, fun en first => ⟨fun lt => ?_, fun ge => ?_⟩⟩
  · have still : ¬ s.bu.watch.counting = true := fun no => by
      obtain ⟨en, first⟩ := counting_iff.1 no
      rcases rests with e | e <;> simp [e] at en first
    exact congrArg Host.Outcome.next (if_neg still)
  · exact congrArg Host.Outcome.next ((if_pos (counting_iff.2 ⟨en, first⟩)).trans (if_pos lt))
  · exact congrArg Host.Outcome.next ((if_pos (counting_iff.2 ⟨en, first⟩)).trans (if_neg (Nat.not_lt.2 ge)))

end Sys2Proof.Machine
end

section
/-! SUPPORT. A window's boundary (chapter 3), trips (chapter 9) and the attention unit (chapter 10). -/
namespace Sys2Proof.Machine

/-! ### A window takes its boundary (R36 to R46, R149) -/

theorem setWindow_setWindow (s : State) (k : Slot) (w w' : Window) :
    (s.setWindow k w).setWindow k w' = s.setWindow k w' := by simp [State.setWindow]

/-- A record written twice, with other blocks written in between. -/
theorem setWindow_over (s : State) (k : Slot) (w w' : Window) (re : ResyncEngine) (sw : StampWriter) (tu : TripUnit)
    (au : AttentionUnit) : ({ (s.setWindow k w).setWindow k w' with re := re, sw := sw, tu := tu, au := au } : State) =
      { s.setWindow k w' with re := re, sw := sw, tu := tu, au := au } := by rw [setWindow_setWindow]

theorem holds_eq_false_iff {re : ResyncEngine} {k : Slot} : re.holds k = false ↔ ∀ e ∈ re.queue, e.slot ≠ k := by
  simp [ResyncEngine.holds]

/-- A restore touches the trip unit alone. -/
theorem restore_eq (s : State) (k : Slot) : s.restore k = { s with tu := (s.restore k).tu } := by
  rcases restore_cases s k with ⟨-, e⟩ | ⟨-, e⟩ <;> rw [e]

section
variable {s : State} {k : Slot} {d : Descriptor} {seq : BitVec 32} {w : Window}

theorem eligible_of_incomplete (h : (s.window k).phase ≠ .complete) : s.eligible k d seq = s.restore k := by
  simp [State.eligible, h]

theorem eligible_of_mayFlip (h : (s.window k).phase = .complete) (may : (s.restore k).mayFlip k = true) :
    s.eligible k d seq = (s.restore k).flip k d seq := by simp [State.eligible, h, may]

theorem eligible_of_late (h : (s.window k).phase = .complete) (late : ¬ (s.restore k).mayFlip k = true) :
    s.eligible k d seq = (s.restore k).countLate k := by simp [State.eligible, h, late]

theorem flip_of_window (h : s.window k = w) : s.flip k d seq = { s.setWindow k (w.flipped d) with
    re := s.re.append k w.dirty
    sw := match d.stampAddr with
      | some a => s.sw.append (flipRecord k w d a seq)
      | none   => s.sw } := by
  subst h
  rfl

theorem countLate_of_window (h : s.window k = w) :
    s.countLate k = (s.setWindow k { w with lateCount := min (w.lateCount + 1) 255 }).raise .lateFlip := by
  subst h
  rfl

theorem takeBoundary_of_empty (h : (s.window k).inbox = []) : s.takeBoundary k = s := by simp [State.takeBoundary, h]

theorem takeBoundary_counts {b : Boundary} {rest : List Boundary} (inbox : (s.window k).inbox = b :: rest)
    (desc : (s.window k).desc = some d) (below : (s.window k).cadenceCount + 1 < d.cadence) : s.takeBoundary k =
      s.setWindow k { s.window k with inbox := rest, cadenceCount := (s.window k).cadenceCount + 1 } := by
  simp [State.takeBoundary, inbox, desc, below]

theorem takeBoundary_eligible {b : Boundary} {rest : List Boundary} (inbox : (s.window k).inbox = b :: rest)
    (desc : (s.window k).desc = some d) (reached : d.cadence ≤ (s.window k).cadenceCount + 1) : s.takeBoundary k =
      (s.setWindow k { s.window k with inbox := rest, cadenceCount := 0 }).eligible k d b.seq := by
  simp [State.takeBoundary, inbox, desc, Nat.not_lt.2 reached]

end

/-- Settles O30: below its cadence the window counts; the eligible boundary restores, and a COMPLETE update flips or is
late by R39. -/
theorem windowTakesItsBoundary : Obligations.WindowTakesItsBoundary := by
  refine fun s k => ⟨fun empty => congrArg Host.Outcome.next (takeBoundary_of_empty empty), fun b rest d inbox desc =>
    ⟨fun below => congrArg Host.Outcome.next (takeBoundary_counts inbox desc below), fun reached => ?_⟩⟩
  let w : Window := { s.window k with inbox := rest, cadenceCount := 0 }
  let u : State := s.setWindow k w
  have record : u.window k = w := window_setWindow_self s k w
  have record' : (u.restore k).window k = w := (window_restore u k k).trans record
  have restored : u.restore k = { u with tu := (u.restore k).tu } := restore_eq u k
  have taken : exec (.windowTakeBoundary k) s = .next (u.eligible k d b.seq) :=
    congrArg Host.Outcome.next (takeBoundary_eligible inbox desc reached)
  have may : (u.restore k).mayFlip k = true ↔
      w.life = .active ∧ (∀ e ∈ s.re.queue, e.slot ≠ k) ∧ ((u.restore k).tu.entry k).view = .live := by
    rw [mayFlip_iff, window_restore, record, re_restore, holds_eq_false_iff]
    rfl
  refine ⟨(u.restore k).tu, fun no => ?_, fun pending => ?_, fun incomplete => ?_, fun complete => ⟨fun flips => ?_,
    fun late => ?_⟩⟩
  · rcases restore_cases u k with ⟨-, e⟩ | ⟨yes, -⟩
    · rw [e]
      rfl
    · exact absurd (yes.symm.trans no) (by decide)
  · rcases restore_cases u k with ⟨no, -⟩ | ⟨-, e⟩
    · exact absurd (pending.symm.trans no) (by decide)
    · rw [e]
      exact toLive_backToLive s.tu k
  · rw [taken, eligible_of_incomplete (record ▸ incomplete)]
    exact congrArg Host.Outcome.next restored
  · rw [taken, eligible_of_mayFlip (record ▸ complete) (may.2 flips), flip_of_window record', restored]
    obtain ⟨active, -, -⟩ := flips
    have flipped : w.flipped d = { w with
        live := w.live.other, gen := w.gen + 1, phase := .clean, dirty := 0, lateCount := 0,
        life := if d.singleShot then .held else .active } := by rw [Window.flipped, active]; rfl
    rw [flipped]
    cases d.stampAddr with
    | none => exact congrArg Host.Outcome.next (setWindow_over s k w _ _ s.sw _ s.au)
    | some a =>
      simp only [append_withRecord]
      exact congrArg Host.Outcome.next (setWindow_over s k w _ _ (s.sw.withRecord (flipRecord k w d a b.seq)) _ s.au)
  · rw [taken, eligible_of_late (record ▸ complete) (mt may.1 late), countLate_of_window record', restored]
    exact congrArg Host.Outcome.next (setWindow_over s k w _ s.re s.sw _ (s.au.raise .lateFlip))

/-! ### TRIP SET and trip demands (R145 to R147) -/

theorem yesNoOf_of_le {b : Byte} (h : b.toNat ≤ 1) : yesNoOf b = some (b.getLsbD 0) := by
  rcases Nat.le_one_iff_eq_zero_or_eq_one.1 h with zero | one
  · obtain rfl : b = 0#8 := BitVec.eq_of_toNat_eq zero
    rfl
  · obtain rfl : b = 1#8 := BitVec.eq_of_toNat_eq one
    rfl

theorem yesNoOf_of_large {b : Byte} (h : 1 < b.toNat) : yesNoOf b = none := by
  unfold yesNoOf
  split
  · omega
  · omega
  · rfl

/-- Settles O31: operands in range read as the settings they spell. -/
theorem tripSetReplacesTheSettings : Obligations.TripSetReplacesTheSettings := by
  refine fun s e d en hf => ⟨fun ⟨he, hd, hen⟩ => ?_, fun bad => ?_⟩
  · have read : tripSettingsOf e d en = some ((e.toNat, d.toNat), en.getLsbD 0) := by
      rw [tripSettingsOf, filterSettingsOf_of_range he hd, yesNoOf_of_le hen]
    exact exec_onParam rfl hf read (r := .done) rfl rfl
  · refine refuses_badParam rfl hf (operand := tripSettingsOf e d en) ?_
    by_cases hen : en.toNat ≤ 1
    · rw [tripSettingsOf, filterSettingsOf_eq_none fun ⟨he, hd⟩ => bad ⟨he, hd, hen⟩]
    · rw [tripSettingsOf, yesNoOf_of_large (Nat.lt_of_not_le hen)]
      cases filterSettingsOf e d <;> rfl

theorem guarded_iff {w : Window} : w.guarded = true ↔
    (w.life = .active ∨ w.life = .held ∨ w.life = .faulted) ∧ ∃ d ∈ w.desc, d.tripProtected = true := by
  simp [Window.guarded, inService_iff, Option.any_eq_true]

/-- Settles O32: a demand outside TRIPPED writes the view table by which windows are guarded. -/
theorem tripDemandTakesTheTrip : Obligations.TripDemandTakesTheTrip := by
  refine fun s => ⟨fun reason => ⟨fun tripped => if_pos tripped, fun free => ?_⟩, fun hf =>
    exec_answered rfl hf (t := s.tripDemand .command) (r := .done) rfl (by simp)⟩
  refine ⟨(s.tu.trip reason fun k => (s.window k).guarded).views, if_neg free, fun k => ?_⟩
  exact (entry_trip s.tu reason (fun k => (s.window k).guarded) k).trans (if_congr guarded_iff rfl rfl)

/-- Settles O33: the filter's three cases; a rise is the one change that demands a trip. -/
theorem tripSampleFiltersTheLine : Obligations.TripSampleFiltersTheLine := by
  intro s l
  have taken : exec (.tripSample l) s = .next
      (if (s.tu.filter.rises l && s.tu.lineTrip) = true then
        ({ s with pins := { s.pins with trp := l }, tu := { s.tu with filter := s.tu.filter.sample l } } :
          State).tripDemand .line
      else { s with pins := { s.pins with trp := l }, tu := { s.tu with filter := s.tu.filter.sample l } }) := rfl
  refine ⟨fun agrees => ?_, fun differs counts => ?_, fun differs moves => ?_⟩
  · have quiet : ¬ (s.tu.filter.rises l && s.tu.lineTrip) = true := fun both => by
      obtain ⟨low, high, -⟩ := rises_iff.1 (Bool.and_eq_true_iff.1 both).1
      rw [low, high] at agrees
      cases agrees
    rw [taken, if_neg quiet, sample_agrees agrees]
  · have quiet : ¬ (s.tu.filter.rises l && s.tu.lineTrip) = true := fun both => by
      obtain ⟨-, -, ge⟩ := rises_iff.1 (Bool.and_eq_true_iff.1 both).1
      exact absurd counts (Nat.not_lt.2 ge)
    rw [taken, if_neg quiet, sample_counts differs counts]
  · have demands : (s.tu.filter.rises l && s.tu.lineTrip) = true ↔ l = .high ∧ s.tu.lineTrip = true := by
      rw [Bool.and_eq_true_iff, rises_iff]
      refine and_congr_left fun _ => ⟨fun ⟨_, high, _⟩ => high, fun high => ⟨?_, high, moves⟩⟩
      cases level : s.tu.filter.level with
      | low => rfl
      | high => exact absurd (high.trans level.symm) differs
    rw [taken, sample_moves differs moves]
    exact congrArg Host.Outcome.next (if_congr demands rfl rfl)

/-! ### The attention unit (R156 to R161) -/

/-- The bits that stay as causes are cleared. -/
theorem getLsbD_and_not {w : Nat} (x b : BitVec w) (i : Nat) : (x &&& ~~~b).getLsbD i = (x.getLsbD i && !b.getLsbD i) := by
  by_cases h : i < w
  · simp [h]
  · simp [BitVec.getLsbD_of_ge _ _ (Nat.le_of_not_lt h)]

theorem readFault_empty {s : State} (h : s.au.faults = []) : readFault s = (s, .fail .empty) := by simp [readFault, h]

theorem readFault_cons {s : State} {r : FaultRecord} {rs : List FaultRecord} (h : s.au.faults = r :: rs) :
    readFault s = ({ s with au := { s.au with faults := rs } }, .report (faultReport r rs.length)) := by
  simp [readFault, h]

/-- Settles O35: each command's own item. -/
theorem attentionCommandsActOnTheirOwnItem : Obligations.AttentionCommandsActOnTheirOwnItem := by
  refine fun s hf => ⟨fun b => ?_, fun b =>
    exec_answered rfl hf (t := { s with au := { s.au with enables := b } }) (r := .done) rfl rfl, fun empty =>
    exec_answered rfl hf (readFault_empty empty) rfl, fun r rs faults => ?_⟩
  · exact ⟨_, exec_answered rfl hf (t := { s with au := { s.au with causes := s.au.causes &&& ~~~b } }) (r := .done) rfl rfl,
      rfl, getLsbD_and_not s.au.causes b⟩
  · refine (exec_answered rfl hf (readFault_cons faults) rfl).trans ?_
    simp only [Reply.report, faultReport, byteOf_toNat, highFirst_one, highFirst_addr]
    cases r.slot <;> rfl

/-- Each cause has a bit of its own, and each bit its cause (section 11.5.4). -/
theorem mask_eq_twoPow (c : Cause) : ∃ i, c.mask = BitVec.twoPow 8 i := by
  cases c
  exacts [⟨0, rfl⟩, ⟨1, rfl⟩, ⟨2, rfl⟩, ⟨3, rfl⟩, ⟨4, rfl⟩, ⟨5, rfl⟩, ⟨6, rfl⟩, ⟨7, rfl⟩]

theorem exists_mask_eq_twoPow : ∀ i : Nat, i < 8 → ∃ c : Cause, c.mask = BitVec.twoPow 8 i
  | 0, _ => ⟨.trip, rfl⟩
  | 1, _ => ⟨.windowFault, rfl⟩
  | 2, _ => ⟨.lateFlip, rfl⟩
  | 3, _ => ⟨.earlyBoundary, rfl⟩
  | 4, _ => ⟨.lostBoundary, rfl⟩
  | 5, _ => ⟨.memoryFault, rfl⟩
  | 6, _ => ⟨.faultOverflow, rfl⟩
  | 7, _ => ⟨.refusal, rfl⟩
  | n + 8, h => absurd h (by omega)

theorem and_twoPow_ne_zero {x : Byte} {i : Nat} (h : x &&& BitVec.twoPow 8 i ≠ 0) : x.getLsbD i = true := by
  by_contra no
  exact h (by simp [BitVec.and_twoPow, no])

theorem and_twoPow_ne_zero_of_bit {x : Byte} {i : Nat} (h : x.getLsbD i = true) : x &&& BitVec.twoPow 8 i ≠ 0 := by
  intro no
  have bit : (x &&& BitVec.twoPow 8 i).getLsbD i = true := by
    have lt := BitVec.lt_of_getLsbD h
    simp [h, lt]
  simp [no] at bit

/-- Two cause sets meet exactly in a cause. -/
theorem and_ne_zero_iff {x y : CauseSet} : x &&& y ≠ 0#8 ↔ ∃ c : Cause, x &&& c.mask ≠ 0#8 ∧ y &&& c.mask ≠ 0#8 := by
  constructor
  · intro meet
    obtain ⟨i, hi⟩ : ∃ i, (x &&& y).getLsbD i = true := by
      by_contra none
      exact meet (BitVec.eq_of_getLsbD_eq fun i _ => by simpa using not_exists.1 none i)
    obtain ⟨hx, hy⟩ : x.getLsbD i = true ∧ y.getLsbD i = true := by simpa using hi
    obtain ⟨c, mask⟩ := exists_mask_eq_twoPow i (BitVec.lt_of_getLsbD hx)
    exact ⟨c, mask ▸ and_twoPow_ne_zero_of_bit hx, mask ▸ and_twoPow_ne_zero_of_bit hy⟩
  · rintro ⟨c, hx, hy⟩ zero
    obtain ⟨i, mask⟩ := mask_eq_twoPow c
    rw [mask] at hx hy
    have bit := congrArg (·.getLsbD i) zero
    simp [and_twoPow_ne_zero hx, and_twoPow_ne_zero hy] at bit

theorem atn_iff {s : State} : s.atn = true ↔ s.au.causes &&& s.au.enables ≠ 0#8 := decide_eq_true_iff

/-- Settles O36: cause set and enable set meet exactly in a cause; a raised cause adds its own bit. -/
theorem atnFollowsCausesAndEnables : Obligations.AtnFollowsCausesAndEnables := by
  refine fun s => ⟨?_, fun c => ⟨fun masked => ?_, fun enabled => ?_⟩⟩
  · rw [atn_iff, and_ne_zero_iff]
    simp only [present_iff]
  · have same : (s.au.causes ||| c.mask) &&& s.au.enables = s.au.causes &&& s.au.enables := by
      rw [BitVec.and_or_distrib_right, BitVec.and_comm c.mask, masked, BitVec.or_zero]
    exact congrArg (fun x : CauseSet => decide (x ≠ 0#8)) same
  · refine atn_iff.2 fun zero => enabled ?_
    replace zero : (s.au.causes ||| c.mask) &&& s.au.enables = 0#8 := zero
    rw [BitVec.and_or_distrib_right] at zero
    rw [BitVec.and_comm]
    exact (BitVec.or_eq_zero_iff.1 zero).2

end Sys2Proof.Machine
end

section
/-! SUPPORT. One bridge clock (chapter 8, R106; notes/assumptions/2.md): what each part does to each record, and the clock
put together. -/
namespace Sys2Proof.Machine

/-! ### The parts and their order -/

/-- A sample taken on this clock makes the filtered level rise. -/
abbrev Filter.EdgeAt (f : Filter) (l : Level) : Prop :=
  2 ^ f.exponent ≤ f.prescale + 1 ∧ f.level = .low ∧ l = .high ∧ f.depth ≤ f.run + 1

/-- A filter after a clock: its prescale count rises, or it takes a sample. -/
def Filter.clocked (f : Filter) (l : Level) : Filter :=
  if f.prescale + 1 < 2 ^ f.exponent then { f with prescale := f.prescale + 1 } else f.sample l

/-- The watch after a clock at which no edge is judged. -/
def Watch.clocked (w : Watch) : Watch :=
  if w.enable = true ∧ w.first = false then
    if w.prescale + 1 < 2 ^ w.exponent then { w with prescale := w.prescale + 1 } else w.afterStep
  else w

theorem expires_iff {prescale exponent : Nat} : expires prescale exponent = true ↔ 2 ^ exponent ≤ prescale + 1 :=
  decide_eq_true_iff

theorem edgeAt_iff {f : Filter} {l : Level} : (expires f.prescale f.exponent && f.rises l) = true ↔ f.EdgeAt l := by
  rw [Bool.and_eq_true_iff, expires_iff, rises_iff]

theorem Watch.edge_eq_afterEdge (w : Watch) : w.edge = w.afterEdge := by
  cases en : w.enable <;> cases first : w.first <;> simp [Watch.edge, Watch.afterEdge, en, first]
  rfl

theorem watchStepNow_iff {s : State} : s.watchStepNow = true ↔ s.WatchStepDue := by
  rw [State.watchStepNow, Bool.and_eq_true_iff, counting_iff, expires_iff, and_assoc]
  rfl

/-- While the watch counts, an edge is accepted when MIN is reached. -/
theorem edgeNow_iff {s : State} (en : s.bu.watch.enable = true) (first : s.bu.watch.first = false) :
    s.edgeNow = true ↔ s.EdgeDue ∧ s.bu.watch.min ≤ s.bu.watch.count := by
  rw [State.edgeNow, Bool.and_eq_true_iff, edgeAt_iff]
  simp [Watch.accepts, en, first, State.EdgeDue]

/-- The clock at the line filter and the watch takes one of the orders R138 allows. -/
theorem clockLineAndWatch_part (s : State) (first : Bool) : s.LineAndWatchClock (s.clockLineAndWatch first) := by
  unfold State.clockLineAndWatch
  split
  · rename_i h
    have due := watchStepNow_iff.1 (Bool.and_eq_true_iff.1 h).1
    have ⟨en, unset, _⟩ := due
    refine .inr ⟨due, s.clockLine, clockLine_part s, ?_⟩
    rw [← edgeNow_iff en unset]
    split
    · rename_i now
      exact ⟨fun _ => rfl, fun no => absurd now no⟩
    · rename_i now
      exact ⟨fun yes => absurd yes now, fun _ => clockWatch_part _⟩
  · exact .inl ⟨s.clockWatch, clockWatch_part s, clockLine_part _⟩

theorem oneClock_tick (s : State) : s.OneClock s.tick := by
  refine ⟨_, _, clockMemory_part _, clockTimer_part _, ?_⟩
  unfold State.tick
  dsimp only
  split
  · exact ⟨_, .inl ⟨clockTrip_part _, clockLineAndWatch_part ..⟩⟩
  · exact ⟨_, .inr ⟨clockLineAndWatch_part .., clockTrip_part _⟩⟩

/-! ### What each part does to the boundary unit and the trip filter -/

theorem sources_answerClient (s : State) (c : Client) (ans : ClientAnswer) :
    (s.answerClient c ans).bu = s.bu ∧ (s.answerClient c ans).tu = s.tu := by
  cases c
  · rcases answerHost_cases s ans with h | ⟨t, r, rest, -, -, ⟨w, -, h⟩ | ⟨k, -, h⟩⟩ <;> rw [State.answerClient, h]
    · exact ⟨rfl, rfl⟩
    · split
      · rcases complete_cases s t with e | ⟨_, _, _, _, _, _, _, _, e⟩ <;> rw [e] <;> exact ⟨rfl, rfl⟩
      · exact ⟨rfl, rfl⟩
    · exact ⟨rfl, rfl⟩
  · rcases answerConsumer_cases s ans with h | ⟨t, r, rest, -, -, ⟨w, -, h⟩ | ⟨k, -, h⟩⟩ <;>
      rw [State.answerClient, h] <;> exact ⟨rfl, rfl⟩
  · rcases answerResync_cases s ans with ⟨-, h⟩ | ⟨-, h⟩ | ⟨-, c, e, rest, -, -, ⟨w, -, h⟩ | ⟨k, -, h⟩⟩ <;>
      rw [State.answerClient, h] <;> exact ⟨rfl, rfl⟩
  · exact ⟨rfl, rfl⟩

/-- The memory port's part leaves the boundary unit and the trip unit. -/
theorem sources_clockMemory (s : State) : s.clockMemory.bu = s.bu ∧ s.clockMemory.tu = s.tu := by
  rcases clockMemory_cases s with ⟨-, e⟩ | ⟨a, -, ⟨-, e⟩ | ⟨-, e⟩⟩ <;> rw [e]
  · exact ⟨rfl, rfl⟩
  · exact ⟨rfl, rfl⟩
  · rcases timeOut_cases s with h | ⟨a, -, -, h⟩ <;> rw [h]
    · exact ⟨rfl, rfl⟩
    · rw [endAccess_failure]
      exact sources_answerClient ..

/-- The timer's part writes the timer and its boundary counter. -/
theorem bu_clockTimer (s : State) : s.clockTimer.bu = { s.bu with
    pt := if s.bu.pt.running = true then
        if s.bu.pt.prescale + 1 < 2 ^ s.bu.pt.exponent then { s.bu.pt with prescale := s.bu.pt.prescale + 1 }
        else s.bu.pt.step.1
      else s.bu.pt
    ptSeq := if s.bu.pt.running = true ∧ 2 ^ s.bu.pt.exponent ≤ s.bu.pt.prescale + 1 ∧ s.bu.pt.step.2 = true then
        s.bu.ptSeq + 1
      else s.bu.ptSeq } := by
  cases running : s.bu.pt.running with
  | false => simp [State.clockTimer, running]
  | true =>
    by_cases due : 2 ^ s.bu.pt.exponent ≤ s.bu.pt.prescale + 1
    · cases turns : s.bu.pt.step.2 <;>
        simp [State.clockTimer, State.countStep, running, expires, due, Nat.not_lt.2 due, turns, BoundaryUnit.count]
    · simp [State.clockTimer, running, expires, due, Nat.lt_of_not_le due]

theorem tu_clockTimer (s : State) : s.clockTimer.tu = s.tu := by
  unfold State.clockTimer
  dsimp only
  split
  · split
    · rcases countStep_cases s with ⟨-, e⟩ | ⟨-, -, e⟩ | ⟨-, -, e⟩ <;> rw [e]
      exact tu_deliver ..
    · rfl
  · rfl

/-- An edge writes the watch, and the counter when it is accepted. -/
theorem bu_bxEdge (s : State) : s.bxEdge.bu = { s.bu with
    watch := s.bu.watch.afterEdge
    bxSeq := if s.bu.watch.accepts = true then s.bu.bxSeq + 1 else s.bu.bxSeq } := by
  by_cases accepts : s.bu.watch.accepts = true
  · rw [bxEdge_of_accepts s.bu.watch.edge_eq_afterEdge accepts, if_pos accepts]
    rfl
  · rw [bxEdge_of_early s.bu.watch.edge_eq_afterEdge accepts, if_neg accepts]
    rfl

/-- The line filter's part writes the filter, and at an edge the watch and its boundary counter. -/
theorem bu_clockLine (s : State) : s.clockLine.bu = { s.bu with
    line := s.bu.line.clocked s.pins.bnd
    watch := if s.bu.line.EdgeAt s.pins.bnd then s.bu.watch.afterEdge else s.bu.watch
    bxSeq := if s.bu.line.EdgeAt s.pins.bnd ∧ s.bu.watch.accepts = true then s.bu.bxSeq + 1 else s.bu.bxSeq } := by
  by_cases due : 2 ^ s.bu.line.exponent ≤ s.bu.line.prescale + 1
  · have sampled : s.clockLine = s.sampleLine := if_pos (expires_iff.2 due)
    rw [Filter.clocked, if_neg (Nat.not_lt.2 due)]
    by_cases rise : s.bu.line.rises s.pins.bnd = true
    · have edge : s.bu.line.EdgeAt s.pins.bnd := ⟨due, rises_iff.1 rise⟩
      rw [sampled, State.sampleLine, if_pos rise, bu_bxEdge, if_pos edge]
      simp only [and_iff_right edge]
    · have quiet : ¬ s.bu.line.EdgeAt s.pins.bnd := fun ⟨_, edge⟩ => rise (rises_iff.2 edge)
      rw [sampled, State.sampleLine, if_neg rise, if_neg quiet, if_neg fun ⟨yes, _⟩ => quiet yes]
  · have quiet : ¬ s.bu.line.EdgeAt s.pins.bnd := fun ⟨yes, _⟩ => due yes
    rw [State.clockLine, if_neg (mt expires_iff.1 due), Filter.clocked, if_pos (Nat.lt_of_not_le due), if_neg quiet,
      if_neg fun ⟨yes, _⟩ => quiet yes]

theorem tu_clockLine (s : State) : s.clockLine.tu = s.tu := by
  unfold State.clockLine
  dsimp only
  split
  · unfold State.sampleLine
    dsimp only
    split <;> simp
  · rfl

/-- The watch's part writes the watch, and leaves the trip filter. -/
theorem bu_clockWatch (s : State) : s.clockWatch.bu = { s.bu with watch := s.bu.watch.clocked } := by
  by_cases counts : s.bu.watch.enable = true ∧ s.bu.watch.first = false
  · obtain ⟨en, first⟩ := counts
    by_cases due : 2 ^ s.bu.watch.exponent ≤ s.bu.watch.prescale + 1
    · have stepped : s.watchCount.bu = { s.bu with watch := s.bu.watch.afterStep } := by
        rcases watchCount_cases s with ⟨no, -⟩ | ⟨-, lt, e⟩ | ⟨-, ge, t, rfl, e⟩
        · simp [Watch.counting, en, first] at no
        · rw [e, Watch.afterStep, if_pos lt]
        · rw [e, Watch.afterStep, if_neg (Nat.not_lt.2 ge)]
          split <;> simp
      simp [State.clockWatch, Watch.counting, Watch.clocked, en, first, expires, due, Nat.not_lt.2 due, stepped]
    · simp [State.clockWatch, Watch.counting, Watch.clocked, en, first, expires, due, Nat.lt_of_not_le due]
  · have rests : s.bu.watch.counting = false := Bool.eq_false_iff.2 (mt counting_iff.1 counts)
    simp [State.clockWatch, rests, Watch.clocked, counts]

theorem filter_tripDemand (s : State) (r : TripReason) : (s.tripDemand r).tu.filter = s.tu.filter := by
  rcases tripDemand_cases s r with ⟨-, e⟩ | ⟨-, e⟩ <;> rw [e]
  rfl

theorem filter_clockWatch (s : State) : s.clockWatch.tu.filter = s.tu.filter := by
  unfold State.clockWatch
  dsimp only
  split
  · split
    · rcases watchCount_cases s with ⟨-, e⟩ | ⟨-, -, e⟩ | ⟨-, -, t, rfl, e⟩ <;> rw [e]
      split
      · exact filter_tripDemand ..
      · rfl
    · rfl
  · rfl

/-- The trip filter's part leaves the boundary unit. -/
theorem bu_clockTrip (s : State) : s.clockTrip.bu = s.bu := by
  unfold State.clockTrip
  dsimp only
  split
  · unfold State.sampleTrip
    dsimp only
    split <;> simp
  · rfl

theorem filter_clockTrip (s : State) : s.clockTrip.tu.filter = s.tu.filter.clocked s.pins.trp := by
  unfold State.clockTrip State.sampleTrip
  dsimp only
  rw [apply_ite (fun t : State => t.tu.filter), apply_ite (fun t : State => t.tu.filter), filter_tripDemand, ite_self]
  by_cases due : 2 ^ s.tu.filter.exponent ≤ s.tu.filter.prescale + 1
  · rw [if_pos (expires_iff.2 due), Filter.clocked, if_neg (Nat.not_lt.2 due)]
  · rw [if_neg (mt expires_iff.1 due), Filter.clocked, if_pos (Nat.lt_of_not_le due)]

/-! ### The boundary unit over the whole clock -/

/-- What the clock's parts at the line filter and the watch leave of the boundary unit, whichever comes first. -/
structure LineAndWatchMoves (bnd : Level) (bu bu' : BoundaryUnit) : Prop where
  pt       : bu'.pt = bu.pt
  ptSeq    : bu'.ptSeq = bu.ptSeq
  line     : bu'.line = bu.line.clocked bnd
  bxSeq    : bu'.bxSeq = bu.bxSeq ∨ bu.line.EdgeAt bnd ∧ bu'.bxSeq = bu.bxSeq + 1
  resting  : bu.watch.enable = false ∨ bu.watch.first = true →
    bu'.watch = if bu.line.EdgeAt bnd then bu.watch.afterEdge else bu.watch
  counting : bu.watch.enable = true → bu.watch.first = false → bu.watch.prescale + 1 < 2 ^ bu.watch.exponent →
    bu'.watch = if bu.line.EdgeAt bnd then ({ bu.watch with prescale := bu.watch.prescale + 1 } : Watch).afterEdge
      else { bu.watch with prescale := bu.watch.prescale + 1 }
  stepping : bu.watch.enable = true → bu.watch.first = false → 2 ^ bu.watch.exponent ≤ bu.watch.prescale + 1 →
    (bu'.watch = if bu.line.EdgeAt bnd then bu.watch.afterStep.afterEdge else bu.watch.afterStep) ∨
      bu.line.EdgeAt bnd ∧ bu'.watch = if bu.watch.count < bu.watch.min then bu.watch.afterStep else bu.watch.afterEdge

namespace Watch
variable {w : Watch}

theorem clocked_of_rests (h : w.enable = false ∨ w.first = true) : w.clocked = w := by
  refine if_neg fun ⟨en, first⟩ => ?_
  rcases h with no | no <;> simp [no] at en first

theorem clocked_of_counting (en : w.enable = true) (first : w.first = false) (early : w.prescale + 1 < 2 ^ w.exponent) :
    w.clocked = { w with prescale := w.prescale + 1 } := (if_pos ⟨en, first⟩).trans (if_pos early)

theorem clocked_of_stepping (en : w.enable = true) (first : w.first = false) (due : 2 ^ w.exponent ≤ w.prescale + 1) :
    w.clocked = w.afterStep := (if_pos ⟨en, first⟩).trans (if_neg (Nat.not_lt.2 due))

theorem afterEdge_of_early (en : w.enable = true) (first : w.first = false) (early : w.count < w.min) :
    w.afterEdge = w := by simp [afterEdge, en, first, early]

end Watch

/-- The watch first, and then the sample. -/
theorem moves_watch_line (s : State) : LineAndWatchMoves s.pins.bnd s.bu s.clockWatch.clockLine.bu := by
  have pins : s.clockWatch.pins = s.pins := (clockRespects_quiet.clockWatch s).pins
  rw [bu_clockLine, bu_clockWatch, pins]
  refine ⟨rfl, rfl, rfl, ?_, fun rests => ?_, fun en first early => ?_, fun en first due => .inl ?_⟩
  · dsimp only
    split
    · rename_i accepted
      obtain ⟨edge, -⟩ := accepted
      exact .inr ⟨edge, rfl⟩
    · exact .inl rfl
  · simp only [Watch.clocked_of_rests rests]
  · simp only [Watch.clocked_of_counting en first early]
  · simp only [Watch.clocked_of_stepping en first due]

/-- The sample first, with a watch step due: the step is not taken when an accepted edge has restarted the count. -/
theorem moves_line_watch {s : State} (due : s.WatchStepDue) :
    LineAndWatchMoves s.pins.bnd s.bu (if s.edgeNow then s.clockLine else s.clockLine.clockWatch).bu := by
  obtain ⟨en, first, reached⟩ := due
  have accepts : s.bu.watch.accepts = true ↔ s.bu.watch.min ≤ s.bu.watch.count := by simp [Watch.accepts, en, first]
  have resting : ¬ (s.bu.watch.enable = false ∨ s.bu.watch.first = true) := by simp [en, first]
  have early : ¬ s.bu.watch.prescale + 1 < 2 ^ s.bu.watch.exponent := Nat.not_lt.2 reached
  have counter : ∀ t : BoundaryUnit, t.bxSeq =
        (if s.bu.line.EdgeAt s.pins.bnd ∧ s.bu.watch.accepts = true then s.bu.bxSeq + 1 else s.bu.bxSeq) →
      t.bxSeq = s.bu.bxSeq ∨ s.bu.line.EdgeAt s.pins.bnd ∧ t.bxSeq = s.bu.bxSeq + 1 := fun t h => by
    rw [h]
    split
    · rename_i accepted
      obtain ⟨edge, -⟩ := accepted
      exact .inr ⟨edge, rfl⟩
    · exact .inl rfl
  split
  · rename_i now
    obtain ⟨edge, reachedMin⟩ := (edgeNow_iff en first).1 now
    rw [bu_clockLine]
    refine ⟨rfl, rfl, rfl, counter _ rfl, fun rests => absurd rests resting, fun _ _ lt => absurd lt early,
      fun _ _ _ => .inr ⟨edge, ?_⟩⟩
    exact (if_pos edge).trans (if_neg (Nat.not_lt.2 reachedMin)).symm
  · rename_i now
    rw [bu_clockWatch, bu_clockLine]
    refine ⟨rfl, rfl, rfl, counter _ rfl, fun rests => absurd rests resting, fun _ _ lt => absurd lt early, fun _ _ _ => ?_⟩
    have stepped := Watch.clocked_of_stepping en first reached
    by_cases edge : s.bu.line.EdgeAt s.pins.bnd
    · have below : s.bu.watch.count < s.bu.watch.min :=
        Nat.lt_of_not_le fun le => now ((edgeNow_iff en first).2 ⟨edge, le⟩)
      refine .inr ⟨edge, ?_⟩
      rw [if_pos below, if_pos edge, Watch.afterEdge_of_early en first below, stepped]
    · refine .inl ?_
      rw [if_neg edge, if_neg edge, stepped]

theorem moves_clockLineAndWatch (s : State) (first : Bool) :
    LineAndWatchMoves s.pins.bnd s.bu (s.clockLineAndWatch first).bu := by
  unfold State.clockLineAndWatch
  split
  · rename_i h
    exact moves_line_watch (watchStepNow_iff.1 (Bool.and_eq_true_iff.1 h).1)
  · exact moves_watch_line s

theorem quiet_clockMemory (s : State) : Quiet s s.clockMemory := by
  rcases clockMemory_cases s with ⟨-, e⟩ | ⟨a, -, ⟨-, e⟩ | ⟨-, e⟩⟩ <;> rw [e]
  · exact .refl s
  · exact .of_au rfl rfl rfl rfl rfl
  · exact quiet_timeOut s

/-- The state a clock's filters and watch start from. -/
def State.clockStarted (s : State) : State := ({ s with choices := s.choices + 1 } : State).clockMemory.clockTimer

theorem pins_clockStarted (s : State) : s.clockStarted.pins = s.pins := by
  rw [State.clockStarted, (clockRespects_quiet.clockTimer _).pins, (quiet_clockMemory _).pins]

theorem tu_clockStarted (s : State) : s.clockStarted.tu = s.tu := by
  rw [State.clockStarted, tu_clockTimer, (sources_clockMemory _).2]

/-- A clock after its start: the trip filter's part comes before the line filter's and the watch's, or after. -/
theorem tick_cases (s : State) : ∃ first, s.tick = s.clockStarted.clockTrip.clockLineAndWatch first ∨
    s.tick = (s.clockStarted.clockLineAndWatch first).clockTrip := by
  refine ⟨Config.watchStepFirst s.choices, ?_⟩
  unfold State.tick
  dsimp only
  split
  · exact .inl rfl
  · exact .inr rfl

/-- The trip filter's part leaves the boundary unit. -/
theorem moves_tick (s : State) : LineAndWatchMoves s.pins.bnd s.clockStarted.bu s.tick.bu := by
  obtain ⟨first, e | e⟩ := tick_cases s
  · have moves := moves_clockLineAndWatch s.clockStarted.clockTrip first
    rwa [bu_clockTrip, (clockRespects_quiet.clockTrip _).pins, pins_clockStarted, ← e] at moves
  · have moves := moves_clockLineAndWatch s.clockStarted first
    rwa [pins_clockStarted, ← bu_clockTrip (s.clockStarted.clockLineAndWatch first), ← e] at moves

/-! ### The trip filter over the whole clock -/

theorem filter_clockLineAndWatch (s : State) (first : Bool) : (s.clockLineAndWatch first).tu.filter = s.tu.filter := by
  unfold State.clockLineAndWatch
  split
  · split
    · rw [tu_clockLine]
    · rw [filter_clockWatch, tu_clockLine]
  · rw [tu_clockLine, filter_clockWatch]

theorem pins_clockLineAndWatch (s : State) (first : Bool) : (s.clockLineAndWatch first).pins = s.pins := by
  unfold State.clockLineAndWatch
  split
  · split
    · exact (clockRespects_quiet.clockLine s).pins
    · exact ((clockRespects_quiet.clockLine s).trans (clockRespects_quiet.clockWatch _)).pins
  · exact ((clockRespects_quiet.clockWatch s).trans (clockRespects_quiet.clockLine _)).pins

theorem filter_tick (s : State) : s.tick.tu.filter = s.tu.filter.clocked s.pins.trp := by
  obtain ⟨first, e | e⟩ := tick_cases s
  · rw [e, filter_clockLineAndWatch, filter_clockTrip, tu_clockStarted, pins_clockStarted]
  · rw [e, filter_clockTrip, filter_clockLineAndWatch, tu_clockStarted, pins_clockLineAndWatch, pins_clockStarted]

/-! ### The ports, the engine and the memory port over the whole clock -/

/-- The blocks that only the memory port's part of a clock touches. -/
structure MemoryKept (s t : State) : Prop where
  hp     : t.hp = s.hp
  cp     : t.cp = s.cp
  re     : t.re = s.re
  sw     : t.sw = s.sw
  out    : t.out = s.out
  mp     : t.mp = s.mp
  faults : t.au.faults = s.au.faults

theorem clockRespects_memoryKept : ClockRespects MemoryKept where
  refl _ := ⟨rfl, rfl, rfl, rfl, rfl, rfl, rfl⟩
  trans h h' := ⟨h'.hp.trans h.hp, h'.cp.trans h.cp, h'.re.trans h.re, h'.sw.trans h.sw, h'.out.trans h.out,
    h'.mp.trans h.mp, h'.faults.trans h.faults⟩
  sources _ _ _ _ := ⟨rfl, rfl, rfl, rfl, rfl, rfl, rfl⟩
  filter _ _ := ⟨rfl, rfl, rfl, rfl, rfl, rfl, rfl⟩
  deliver _ _ := ⟨rfl, rfl, rfl, rfl, rfl, rfl, rfl⟩
  raise _ _ := ⟨rfl, rfl, rfl, rfl, rfl, rfl, rfl⟩
  demand s r := by rcases tripDemand_cases s r with ⟨-, e⟩ | ⟨-, e⟩ <;> rw [e] <;> constructor <;> rfl

/-- The counter of free values at a number. -/
def State.drawn (s : State) (n : Nat) : State := { s with choices := n }

theorem window_drawn (s : State) (n : Nat) (k : Slot) : (s.drawn n).window k = s.window k := rfl

theorem complete_drawn (s : State) (n : Nat) (t : Translated) : (s.drawn n).complete t = (s.complete t).drawn n := by
  unfold State.complete
  simp only [window_drawn]
  split
  · split
    · rw [apply_ite (State.drawn · n)]
      rfl
    · rfl
  · rfl

/-- What a client takes does not look at the counter of free values. -/
theorem answerClient_drawn (s : State) (n : Nat) (c : Client) (ans : ClientAnswer) :
    (s.drawn n).answerClient c ans = (s.answerClient c ans).drawn n := by
  cases c
  case hp =>
    show (s.drawn n).answerHost ans = (s.answerHost ans).drawn n
    rcases awaiting_cases s.hp with ⟨t, r, rest, hs, hq⟩ | deaf
    · obtain ⟨ok, failure⟩ := answerHost_of_awaiting hs hq
      obtain ⟨ok', failure'⟩ := answerHost_of_awaiting (s := s.drawn n) hs hq
      cases ans with
      | ok word =>
        rw [ok, ok', complete_drawn]
        split <;> rfl
      | failure kind => rw [failure, failure']; rfl
    · rw [answerHost_of_deaf deaf, answerHost_of_deaf (s := s.drawn n) deaf]
  case cp =>
    show (s.drawn n).answerConsumer ans = (s.answerConsumer ans).drawn n
    rcases awaiting_cases s.cp with ⟨t, r, rest, hs, hq⟩ | deaf
    · obtain ⟨ok, failure⟩ := answerConsumer_of_awaiting hs hq
      obtain ⟨ok', failure'⟩ := answerConsumer_of_awaiting (s := s.drawn n) hs hq
      cases ans with
      | ok word => rw [ok, ok']; rfl
      | failure kind => rw [failure, failure']; rfl
    · rw [answerConsumer_of_deaf deaf, answerConsumer_of_deaf (s := s.drawn n) deaf]
  case re =>
    show (s.drawn n).answerResync ans = (s.answerResync ans).drawn n
    have blocks : (s.drawn n).re = s.re := rfl
    unfold State.answerResync
    rw [blocks]
    cases s.re.orphaned with
    | true => rfl
    | false => cases s.re.copy <;> cases s.re.queue <;> cases ans <;> rfl
  case sw => rfl

/-- An access that reaches its limit ends as ACCESS_TIMEOUT ends it. -/
theorem memoryKept_timeOut {s : State} {a : AwaitingAccess} (out : s.mp.awaiting = some a) (limited : a.limit.isSome = true)
    (n : Nat) : ∃ u, exec .accessTimeout s = .next u ∧ u.mp = { s.mp with awaiting := none } ∧
      u.au.faults = (s.au.withFault (a.failure .timeout)).faults ∧ MemoryKept u (s.drawn n).timeOut := by
  have timedOut : (s.drawn n).timeOut =
      (({ s.freed with au := s.au.withFault (a.failure .timeout) } : State).drawn n).answerClient a.access.client
        (.failure .timeout) :=
    next_inj (exec_failure (s := s.drawn n) out (.inr ⟨rfl, limited, rfl⟩))
  refine ⟨_, exec_failure out (.inr ⟨rfl, limited, rfl⟩), ?_⟩
  obtain ⟨mp, -, au⟩ := answerClient_frame ({ s.freed with au := s.au.withFault (a.failure .timeout) } : State)
    a.access.client (.failure .timeout)
  refine ⟨mp, ?_, ?_⟩
  · rcases au with au | ⟨au, -⟩ <;> rw [au]
    rfl
  · rw [timedOut, answerClient_drawn]
    exact ⟨rfl, rfl, rfl, rfl, rfl, rfl, rfl⟩

/-! ### The statement -/

/-- Settles O3: the clock is its parts in one of the allowed orders, and each record is written by one part, or by the line
filter and the watch together. -/
theorem idleStepIsOneBridgeClock : Obligations.IdleStepIsOneBridgeClock := by
  intro s empty
  have quiet := quiet_tick s
  have moves := moves_tick s
  have bu : s.clockStarted.bu = _ := (bu_clockTimer _).trans (by rw [(sources_clockMemory _).1])
  rw [bu] at moves
  have kept := clockRespects_memoryKept.tick s
  refine ⟨s.tick, by simp [step, empty], oneClock_tick s, quiet.ml, quiet.pins, quiet.pending.trans empty, quiet.choices,
    quiet.enables, quiet.refusal, moves.ptSeq, moves.bxSeq, moves.pt, moves.line, filter_tick s,
    ⟨moves.resting, fun en first => ⟨moves.counting en first, moves.stepping en first⟩⟩, fun free => ?_, fun a out =>
    ⟨fun early => ?_, fun l limit due => ?_⟩⟩
  · rcases clockMemory_cases { s with choices := s.choices + 1 } with ⟨-, e⟩ | ⟨a, out, -⟩
    · rw [e] at kept
      exact ⟨kept.mp, kept.hp, kept.cp, kept.re, kept.sw, kept.out⟩
    · cases free.symm.trans out
  · rcases clockMemory_cases { s with choices := s.choices + 1 } with ⟨free, -⟩ | ⟨a', out', ⟨-, e⟩ | ⟨⟨l, limit, due⟩, -⟩⟩
    · cases free.symm.trans out
    · obtain rfl : a = a' := Option.some.inj (out.symm.trans out')
      rw [e] at kept
      exact ⟨kept.mp, kept.faults, kept.hp, kept.cp, kept.re, kept.sw, kept.out⟩
    · obtain rfl : a = a' := Option.some.inj (out.symm.trans out')
      exact absurd due (Nat.not_le.2 (early l limit))
  · rcases clockMemory_cases { s with choices := s.choices + 1 } with ⟨free, -⟩ | ⟨a', out', ⟨early, -⟩ | ⟨-, e⟩⟩
    · cases free.symm.trans out
    · obtain rfl : a = a' := Option.some.inj (out.symm.trans out')
      exact absurd due (Nat.not_le.2 (early l limit))
    · obtain ⟨u, taken, mp, faults, same⟩ := memoryKept_timeOut out (Option.isSome_of_mem limit) (s.choices + 1)
      replace kept : MemoryKept u s.tick := clockRespects_memoryKept.trans same (e ▸ kept)
      exact ⟨kept.mp.trans mp, kept.faults.trans faults, u, taken, kept.hp, kept.cp, kept.re, kept.sw, kept.out⟩

end Sys2Proof.Machine
end

section
/-! SUPPORT. The memory port and its arbiter (chapter 6), and the fault list (section 10.4). -/
namespace Sys2Proof.Machine

/-! ### MEMORY SET (R107) -/

theorem timeoutOf_of_range {b : Byte} (least : 4 ≤ b.toNat) (most : b.toNat ≤ 15) : timeoutOf b = some (some b.toNat) :=
  (if_neg (by omega)).trans (if_pos ⟨least, most⟩)

theorem timeoutOf_eq_none {b : Byte} (pos : b ≠ 0) (range : b.toNat < 4 ∨ 15 < b.toNat) : timeoutOf b = none :=
  (if_neg fun zero => pos (BitVec.eq_of_toNat_eq zero)).trans (if_neg (by omega))

/-- Settles O38: OFF, an exponent, or no setting. -/
theorem memorySetAppliesToLaterGrants : Obligations.MemorySetAppliesToLaterGrants := by
  refine fun s b hf => ⟨?_, fun least most => ?_, fun pos range => refuses_badParam rfl hf (timeoutOf_eq_none pos range)⟩
  · rintro rfl
    exact exec_onParam rfl hf (operand := timeoutOf 0) (x := none) (r := .done) rfl rfl rfl
  · exact exec_onParam rfl hf (timeoutOf_of_range least most) (r := .done) rfl rfl

/-! ### Grants (R99 to R103) -/

theorem grant_of_choice {s : State} {a : Access} {n : Nat} (free : s.mp.awaiting = none)
    (choice : s.grantChoice = some (a, n)) : s.grant = s.issue a n := by simp [State.grant, free, choice]

theorem grant_of_busy {s : State} (busy : s.mp.awaiting ≠ none) : s.grant = s := by
  rcases grant_cases s with same | ⟨a, n, free, -⟩
  · exact same
  · exact absurd free busy

theorem grant_of_none {s : State} (choice : s.grantChoice = none) : s.grant = s := by
  rcases grant_cases s with same | ⟨a, n, -, chosen, -⟩
  · exact same
  · cases choice.symm.trans chosen

/-- Settles O39: who asks, and the arbiter's table row by row. -/
theorem grantsFollowRankAndPassover : Obligations.GrantsFollowRankAndPassover := by
  refine fun s => ⟨s.grant, rfl, fun a => ⟨portRequest_iff, stampAccess_iff, portRequest_iff, copyRequest_iff⟩,
    fun lawful free records => ?_, grant_of_busy, fun free => ?_⟩
  · obtain ⟨b, asks, -⟩ := lawful.stamp_asks free records
    obtain ⟨a, n, choice⟩ : ∃ a n, s.grantChoice = some (a, n) := by
      rw [State.grantChoice, asks]
      cases portRequest .cp s.cp <;> exact ⟨_, _, rfl⟩
    rw [grant_of_choice free choice]
    exact ⟨_, rfl, lawful.granted_before_copy free records choice⟩
  · have granted : ∀ {a n}, s.grantChoice = some (a, n) →
        s.grant.mp.awaiting.map (·.access) = some a ∧ s.grant.mp.passover = n := fun choice => by
      rw [grant_of_choice free choice]
      exact ⟨rfl, rfl⟩
    refine ⟨fun cp sw hp re => grant_of_none ?_, fun a cp => granted ?_, fun a cp sw => granted ?_,
      fun a cp sw hp re => granted ?_, fun a b cp sw hp re lt => granted ?_, fun a b cp sw hp re eq => granted ?_,
      fun b cp sw hp re => granted ?_⟩ <;> rw [State.grantChoice]
    · rw [cp, sw, hp, re]; rfl
    · rw [cp]; rfl
    · rw [cp, sw]; rfl
    · rw [cp, sw, hp, re]; rfl
    · rw [cp, sw, hp, re]; exact if_pos lt
    · rw [cp, sw, hp, re]; exact if_neg (by rw [eq]; decide)
    · rw [cp, sw, hp, re]; rfl

/-- A grant writes the memory port, the record of accesses and the client that asked. -/
theorem issue_eq (s : State) (a : Access) (n : Nat) : s.issue a n = { s with
    hp := (s.issue a n).hp, cp := (s.issue a n).cp, re := (s.issue a n).re, sw := (s.issue a n).sw
    mp := { s.mp with awaiting := some { access := a, tag := s.mp.tag, limit := s.mp.timeout.map (2 ^ ·), clocks := 0 }
                      tag := s.mp.tag + 1, passover := n }
    out := { s.out with accesses := s.out.accesses ++ [{ access := a, tag := s.mp.tag }] } } := by
  cases h : a.client <;> simp [State.issue, State.markGranted, h]

theorem granted_of_requesting {q : Port} {t : Translated} (h : q.service = .requesting t) :
    q.granted = { q with service := .awaiting t } := by simp [Port.granted, h]

/-- A port that asks has a head request, translated (R81, R100). -/
theorem Port.Asks.head {q : Port} {c : Client} {a : Access} (h : q.Asks c a) : ∃ t r rest,
    q.service = .requesting t ∧ q.queue = r :: rest ∧ a = { client := c, op := r.op, addr := t.addr, slot := t.slot } ∧
      q.granted = { q with service := .awaiting t } := by
  obtain ⟨t, r, service, head, asked⟩ := h
  obtain ⟨rest, queue⟩ := List.head?_eq_some_iff.1 head
  exact ⟨t, r, rest, service, queue, asked, granted_of_requesting service⟩

/-- Settles O40: the chosen access is its client's, and only that client is marked. -/
theorem grantIssuesTheClientsAccess : Obligations.GrantIssuesTheClientsAccess := by
  intro s a n free choice
  refine ⟨(s.issue a n).hp, (s.issue a n).cp, (s.issue a n).re, (s.issue a n).sw,
    congrArg Host.Outcome.next ((grant_of_choice free choice).trans (issue_eq s a n)), ?_⟩
  rw [hp_issue, cp_issue, re_issue, sw_issue]
  have chosen := grantChoice_cases choice
  refine ⟨(if_neg ·), (if_neg ·), (if_neg ·), (if_neg ·), fun client => ?_, fun client => ?_, fun client => ?_,
    fun client => ?_⟩ <;> rw [if_pos client] <;> simp only [client, reduceCtorEq, true_and, false_and, or_false, false_or]
      at chosen
  · obtain ⟨t, r, rest, service, queue, asked, granted⟩ := (portRequest_iff.1 chosen).head
    exact ⟨t, r, rest, service, queue, asked, granted⟩
  · obtain ⟨t, r, rest, service, queue, asked, granted⟩ := (portRequest_iff.1 chosen).head
    exact ⟨t, r, rest, service, queue, asked, granted⟩
  · obtain ⟨c, e, d, copy, head, desc, stage, asked⟩ := copyRequest_iff.1 chosen
    obtain ⟨rest, queue⟩ := List.head?_eq_some_iff.1 head
    exact ⟨c, e, rest, d, copy, stage, queue, desc, by rw [copy]; rfl, asked⟩
  · obtain ⟨r, head, stage, asked⟩ := stampAccess_iff.1 chosen
    obtain ⟨rest, queue⟩ := List.head?_eq_some_iff.1 head
    refine ⟨r, rest, queue, stage, rfl, fun word1 => ?_, fun word0 => ⟨r.word0, ?_, word0_isWord0 r⟩⟩
    · rw [asked, word1]
    · rw [asked, word0]

/-! ### Answers and timeouts (R104 to R108, R160) -/

/-- Settles O41: no access awaits the answer, or none has a limit to reach. -/
theorem strayAnswersAreDiscarded : Obligations.StrayAnswersAreDiscarded := by
  refine fun s => ⟨fun tag ans stray => congrArg Host.Outcome.next ?_, fun unlimited => congrArg Host.Outcome.next ?_⟩
  · rcases takeAnswer_cases s tag ans with ⟨same, -⟩ | ⟨a, out, own, -⟩
    · exact same
    · exact absurd own (stray a out)
  · rcases timeOut_cases s with same | ⟨a, out, limited, -⟩
    · exact same
    · rw [unlimited a out] at limited
      cases limited

theorem present_raise_self (au : AttentionUnit) (c : Cause) : (au.raise c).present c = true := by
  rw [present_iff, causes_raise, BitVec.and_or_distrib_right, BitVec.and_self]
  exact fun zero => absurd (BitVec.or_eq_zero_iff.1 zero).2 (by cases c <;> decide)

theorem present_raise_of_disjoint {c c' : Cause} (au : AttentionUnit) (h : c'.mask &&& c.mask = 0#8) :
    (au.raise c').present c = au.present c := by
  rw [AttentionUnit.present, causes_raise, BitVec.and_or_distrib_right, h, BitVec.or_zero]
  rfl

theorem withFault_of_room {au : AttentionUnit} (r : FaultRecord) (h : au.faults.length < 4) :
    au.withFault r = ({ au with faults := au.faults ++ [r] } : AttentionUnit).raise .memoryFault := if_pos h

theorem withFault_of_full {au : AttentionUnit} (r : FaultRecord) (h : 4 ≤ au.faults.length) :
    au.withFault r = au.raise .faultOverflow := if_neg (Nat.not_lt.2 h)

/-- What a fault record changes: the list or nothing, and one cause. -/
theorem withFault_keeps (au : AttentionUnit) (r : FaultRecord) :
    (au.withFault r).refusal = au.refusal ∧ (au.withFault r).enables = au.enables := by
  unfold AttentionUnit.withFault
  split <;> exact ⟨rfl, rfl⟩

/-- Settles O42: the record is taken as R160 says, and the client that takes the failure raises WINDOW_FAULT at most. -/
theorem failuresLeaveOneFaultRecord : Obligations.FailuresLeaveOneFaultRecord := by
  refine fun s a out => ⟨fun c kind fails => ⟨_, exec_failure out fails, ?_⟩, fun word => ⟨_, exec_answer_ok out word, ?_⟩⟩
  · obtain ⟨mp, accesses, au⟩ := answerClient_frame
      ({ s.freed with au := s.au.withFault (a.failure kind) } : State) a.access.client (.failure kind)
    generalize ({ s.freed with au := s.au.withFault (a.failure kind) } : State).answerClient a.access.client
      (.failure kind) = t at mp accesses au
    obtain ⟨refusal, enables⟩ := withFault_keeps s.au (a.failure kind)
    have kept : t.au.refusal = s.au.refusal ∧ t.au.enables = s.au.enables ∧
        t.au.faults = (s.au.withFault (a.failure kind)).faults ∧ ∀ k : Cause, Cause.windowFault.mask &&& k.mask = 0#8 →
          t.au.present k = (s.au.withFault (a.failure kind)).present k := by
      rcases au with au | ⟨au, -⟩ <;> rw [au]
      · exact ⟨refusal, enables, rfl, fun _ _ => rfl⟩
      · exact ⟨refusal, enables, rfl, fun _ apart => present_raise_of_disjoint _ apart⟩
    obtain ⟨refusal, enables, faults, present⟩ := kept
    refine ⟨mp, accesses, refusal, enables, ?_⟩
    rw [faults, present .memoryFault (by decide), present .faultOverflow (by decide)]
    refine ⟨fun room => ?_, fun full => ?_⟩
    · rw [withFault_of_room _ room]
      exact ⟨rfl, present_raise_self .., Eq.congr (present_raise_of_disjoint (c := .faultOverflow) _ (by decide)) rfl⟩
    · rw [withFault_of_full _ full]
      exact ⟨rfl, present_raise_self .., Eq.congr (present_raise_of_disjoint (c := .memoryFault) _ (by decide)) rfl⟩
  · obtain ⟨mp, accesses, au⟩ := answerClient_frame s.freed a.access.client (.ok word)
    refine ⟨mp, ?_, accesses⟩
    rcases au with au | ⟨-, kind, no⟩
    · exact au
    · cases no

end Sys2Proof.Machine
end

section
/-! SUPPORT. What an answer does at the ports (chapter 5), the resync engine (chapter 4) and the stamp writer (chapter 7). -/
namespace Sys2Proof.Machine

/-! ### The answer at a port (R27, R79, R82, R95) -/

/-- Completion moves the phase of one window, if it moves anything. -/
theorem complete_eq (s : State) (t : Translated) : s.complete t = { s with windows := (s.complete t).windows } := by
  rcases complete_cases s t with e | ⟨k, d, -, -, -, -, -, -, e⟩ <;> rw [e]
  rfl

/-- The OK answer to the staged closing write of a window's update (R27). -/
abbrev State.CompletedBy (s : State) (t : Translated) (k : Slot) : Prop :=
  t.staged = true ∧ t.slot = some k ∧ ((s.window k).life = .active ∨ (s.window k).life = .held) ∧
    (s.window k).phase = .staging ∧
    ∃ d ∈ (s.window k).desc, t.addr = d.bankBase (s.window k).live.other + BitVec.ofNat 22 d.closingOffset

theorem window_complete (s : State) (t : Translated) (k : Slot) [Decidable (s.CompletedBy t k)] :
    (s.complete t).window k = if s.CompletedBy t k then { s.window k with phase := .complete } else s.window k := by
  by_cases by_t : s.CompletedBy t k
  · rw [if_pos by_t]
    obtain ⟨staged, slot, life, phase, d, desc, addr⟩ := by_t
    have moved : s.complete t = s.setWindow k { s.window k with phase := .complete } := by
      have closing : t.addr = d.closingWord (s.window k).live.other := addr
      simp [State.complete, staged, slot, Option.mem_def.1 desc, closing, life, phase]
    rw [moved, window_setWindow_self]
  · rw [if_neg by_t]
    rcases complete_cases s t with e | ⟨j, d, staged, slot, desc, addr, life, phase, e⟩ <;> rw [e]
    refine window_setWindow_ne s _ ?_
    rintro rfl
    exact by_t ⟨staged, slot, life, phase, d, desc, addr⟩

/-- Settles O43: the port awaits its head's answer, and an OK to a write may complete the update it was staged for. -/
theorem portsAnswerTheirAccess : Obligations.PortsAnswerTheirAccess := by
  refine fun s a t r rest out => ⟨fun client service queue => ⟨fun word => ?_, fun c kind fails => ?_⟩,
    fun client service queue => ⟨fun word => ?_, fun c kind fails => ?_⟩⟩
  · obtain ⟨ok, -⟩ := answerConsumer_of_awaiting (s := s.freed) service queue
    rw [exec_answer_ok out, client]
    exact congrArg Host.Outcome.next (ok word)
  · obtain ⟨-, failure⟩ :=
      answerConsumer_of_awaiting (s := { s.freed with au := s.au.withFault (a.failure kind) }) service queue
    rw [exec_failure out fails, client]
    exact congrArg Host.Outcome.next (failure kind)
  · obtain ⟨ok, -⟩ := answerHost_of_awaiting (s := s.freed) service queue
    have moved : ∀ u : State, u = { s.freed with windows := u.windows } → u.answerHead .host (okResponse r.op word) =
        { s.freed.servedOk .host (if opIsWrite r.op then 0 else word) with windows := u.windows } := fun u h => by
      rw [h]; rfl
    refine ⟨(if opIsWrite r.op = true then s.freed.complete t else s.freed).windows, ?_, fun k => ?_⟩
    · rw [exec_answer_ok out, client]
      refine congrArg Host.Outcome.next ((ok word).trans (moved _ ?_))
      split
      · exact complete_eq ..
      · rfl
    · by_cases write : opIsWrite r.op = true
      · rw [if_pos write]
        exact (window_complete s.freed t k).trans (if_congr ⟨fun h => ⟨write, h⟩, fun ⟨_, h⟩ => h⟩ rfl rfl)
      · rw [if_neg write, if_neg fun ⟨yes, _⟩ => write yes]
        rfl
  · obtain ⟨-, failure⟩ :=
      answerHost_of_awaiting (s := { s.freed with au := s.au.withFault (a.failure kind) }) service queue
    rw [exec_failure out fails, client]
    exact congrArg Host.Outcome.next (failure kind)

/-! ### Taking an entry in flight (R26, R60) -/

theorem toNat_wordAt {base : Addr} {offset : Nat} (h : base.toNat + offset < 2 ^ 22) :
    (wordAt base offset).toNat = base.toNat + offset := by
  simp only [wordAt, BitVec.toNat_add, BitVec.toNat_ofNat]
  omega

theorem add_le_of_dvd {d a b : Nat} (ha : d ∣ a) (hb : d ∣ b) (lt : a < b) : a + d ≤ b := by
  obtain ⟨x, rfl⟩ := ha
  obtain ⟨y, rfl⟩ := hb
  exact Nat.mul_le_mul_left d (Nat.lt_of_mul_lt_mul_left lt)

/-- The banks of a valid descriptor end at or below the top of the address space. -/
theorem bank_fits {d : Descriptor} (h : d.valid) (bank : Bank) : (d.bankBase bank).toNat + d.size ≤ 2 ^ 22 := by
  obtain ⟨-, k_le, -, -, -, -, bankA, bankB, -⟩ := h
  have size_dvd : d.size ∣ 2 ^ 22 := Nat.pow_dvd_pow 2 (by omega)
  cases bank
  · exact add_le_of_dvd (Nat.dvd_of_mod_eq_zero bankA) size_dvd d.bankABase.isLt
  · exact add_le_of_dvd (Nat.dvd_of_mod_eq_zero bankB) size_dvd d.bankBBase.isLt

/-- A segment's words lie inside its bank. -/
theorem segment_end_le {d : Descriptor} (h : d.valid) (seg : Segment) : seg.val * d.segLen + d.segLen ≤ d.size := by
  obtain ⟨k_ge, -⟩ := h
  have whole : d.segLen * 32 = d.size := Nat.div_mul_cancel (Nat.pow_dvd_pow 2 (m := 5) k_ge)
  calc seg.val * d.segLen + d.segLen = d.segLen * (seg.val + 1) := by ring
    _ ≤ d.segLen * 32 := Nat.mul_le_mul_left _ seg.isLt
    _ = d.size := whole

/-- An address lies in an entry's segment of a bank exactly as one of its words. -/
theorem holds_segment_iff {d : Descriptor} (h : d.valid) (seg : Segment) (bank : Bank) (a : Addr) :
    ({ base := (wordAt (d.bankBase bank) (seg.val * d.segLen)).toNat, size := d.segLen } : Region).holds a = true ↔
      ∃ i, i < d.segLen ∧ a = wordAt (d.bankBase bank) (seg.val * d.segLen + i) := by
  have fits := bank_fits h bank
  have ends := segment_end_le h seg
  have pos := segLen_pos h
  simp only [Region.holds, Bool.and_eq_true, decide_eq_true_eq, toNat_wordAt (base := d.bankBase bank)
    (offset := seg.val * d.segLen) (by omega)]
  constructor
  · rintro ⟨least, most⟩
    refine ⟨a.toNat - ((d.bankBase bank).toNat + seg.val * d.segLen), by omega, BitVec.eq_of_toNat_eq ?_⟩
    rw [toNat_wordAt (by omega)]
    omega
  · rintro ⟨i, lt, rfl⟩
    rw [toNat_wordAt (by omega)]
    omega

/-- A port holds a translated write into an entry's segment (R26). -/
theorem writesInto_iff {d : Descriptor} (h : d.valid) (q : Port) (seg : Segment) : writesInto q d seg = true ↔
    ∃ t r, q.service = .requesting t ∧ q.queue.head? = some r ∧ opIsWrite r.op = true ∧
      ∃ bank, ∃ i, i < d.segLen ∧ t.addr = wordAt (d.bankBase bank) (seg.val * d.segLen + i) := by
  have banks : ∀ p : Bank → Prop, (∃ bank, p bank) ↔ p .a ∨ p .b := fun p =>
    ⟨fun ⟨bank, yes⟩ => by cases bank; exacts [.inl yes, .inr yes], fun yes => yes.elim (⟨_, ·⟩) (⟨_, ·⟩)⟩
  unfold writesInto
  cases q.service <;> cases q.queue <;> simp [banks, holds_segment_iff h]

theorem heldBack_iff {s : State} (lawful : WindowsLawful s) (e : Entry) : s.heldBack e = true ↔ s.WaitingWriteInto e := by
  simp only [State.heldBack, State.WaitingWriteInto, Option.any_eq_true, Bool.or_eq_true, List.mem_cons, List.not_mem_nil,
    or_false, exists_eq_or_imp, exists_eq_left]
  refine exists_congr fun d => and_congr_right fun desc => ?_
  have valid := (lawful e.slot).desc_valid d desc
  rw [writesInto_iff valid, writesInto_iff valid]

/-- Settles O44: the head is held back exactly while a port's write into its segment waits. -/
theorem headIsTakenInFlight : Obligations.HeadIsTakenInFlight := by
  refine fun s lawful => ⟨fun idle => ?_, fun e rest queue copy => ⟨fun waits => ?_, fun free => ?_⟩⟩
  · rcases takeInFlight_cases s with same | ⟨e, rest, copy, queue, -⟩
    · exact congrArg Host.Outcome.next same
    · rcases idle with empty | out
      · cases queue.symm.trans empty
      · exact absurd copy out
  · refine congrArg Host.Outcome.next ?_
    simp [State.takeInFlight, copy, queue, (heldBack_iff lawful e).2 waits]
  · refine congrArg Host.Outcome.next ?_
    simp [State.takeInFlight, copy, queue, mt (heldBack_iff lawful e).1 free]

/-! ### The answer at the resync engine (R16, R61, R62, R69, R71) -/

theorem answerResync_of_orphan {s : State} (orphan : s.re.orphaned = true) (ans : ClientAnswer) :
    s.answerResync ans = { s with re := { s.re with orphaned := false } } := if_pos orphan

theorem answerResync_of_copy {s : State} {c : Copy} {e : Entry} {rest : List Entry} (own : s.re.orphaned = false)
    (copy : s.re.copy = some c) (queue : s.re.queue = e :: rest) :
    (∀ word, s.answerResync (.ok word) = { s with re := s.re.advance c (s.segLenOf e.slot) word }) ∧
      ∀ kind, s.answerResync (.failure kind) = s.failCopy e.slot := by
  simp [State.answerResync, own, copy, queue]

/-- Settles O45: the copy's next step, by the step it has made. -/
theorem copyRunsWordByWord : Obligations.CopyRunsWordByWord := by
  intro s a c e rest d word out client own copy queue desc
  have len : s.freed.segLenOf e.slot = d.segLen := by simp [State.segLenOf, desc]
  have taken : exec (.memoryAnswer a.tag (.ok word)) s = .next { s.freed with re := s.re.advance c d.segLen word } := by
    obtain ⟨ok, -⟩ := answerResync_of_copy (s := s.freed) own copy queue
    rw [exec_answer_ok out, client, ← len]
    exact congrArg Host.Outcome.next (ok word)
  refine ⟨fun read => ?_, fun data write more => ?_, fun data write last => ?_⟩ <;> rw [taken, ResyncEngine.advance]
  · rw [read]
  · rw [write]
    dsimp only
    rw [if_pos more]
  · rw [write]
    dsimp only
    rw [if_neg (Nat.not_lt.2 last), finish_of_cons queue]

/-- A purge of the window of a copy that has ended orphans nothing. -/
theorem purge_of_idle {re : ResyncEngine} (idle : re.copy = none) (own : re.orphaned = false) (k : Slot) : re.purge k =
    { queue := re.queue.filter (·.slot ≠ k), copy := none, orphaned := false,
      awaited := if re.awaited.any (·.slot = k) then none else re.awaited } := by
  simp [ResyncEngine.purge, ResyncEngine.inFlight, idle, own]

theorem failCopy_of_own (s : State) (own : s.re.orphaned = false) (k : Slot) : s.failCopy k =
    { s.setWindow k (s.window k).fail with
      re := { queue := s.re.queue.filter (·.slot ≠ k), copy := none, orphaned := false,
              awaited := if s.re.awaited.any (·.slot = k) then none else s.re.awaited }
      au := s.au.raise .windowFault } := by
  rw [State.failCopy, purge_of_idle (re := { s.re with copy := none }) rfl own]
  rfl

/-- Settles O46: the failed copy's window, or an orphan's answer. -/
theorem copyFailureFaultsTheWindow : Obligations.CopyFailureFaultsTheWindow := by
  refine fun s a cmd kind out client => ⟨fun c e rest own copy queue fails => ?_, fun orphan =>
    ⟨fun word => ?_, fun fails => ?_⟩⟩
  · obtain ⟨-, failure⟩ :=
      answerResync_of_copy (s := { s.freed with au := s.au.withFault (a.failure kind) }) own copy queue
    rw [exec_failure out fails, client]
    exact congrArg Host.Outcome.next ((failure kind).trans
      (failCopy_of_own { s.freed with au := s.au.withFault (a.failure kind) } own e.slot))
  · rw [exec_answer_ok out, client]
    exact congrArg Host.Outcome.next (answerResync_of_orphan (s := s.freed) orphan _)
  · rw [exec_failure out fails, client]
    exact congrArg Host.Outcome.next
      (answerResync_of_orphan (s := { s.freed with au := s.au.withFault (a.failure kind) }) orphan _)

/-! ### The answer at the stamp writer (R115 to R119) -/

namespace StampWriter
variable {sw : StampWriter} {ans : ClientAnswer}

theorem answer_of_discarded (h : sw.discarded = true) : sw.answer ans = { sw with discarded := false } := if_pos h

theorem answer_of_word1 (own : sw.discarded = false) (records : sw.queue ≠ []) (step : sw.step = .word1) (word : Word) :
    sw.answer (.ok word) = { sw with step := .word0, stage := .requested } := by
  obtain ⟨r, rest, queue⟩ := List.exists_cons_of_ne_nil records
  simp [answer, own, queue, step]

theorem answer_of_word0 (own : sw.discarded = false) (records : sw.queue ≠ []) (step : sw.step = .word0) (word : Word) :
    sw.answer (.ok word) = sw.withoutHead := by
  obtain ⟨r, rest, queue⟩ := List.exists_cons_of_ne_nil records
  simp [answer, own, queue, step, dropHead_withoutHead]

theorem answer_of_failure (own : sw.discarded = false) (records : sw.queue ≠ []) (kind : FaultKind) :
    sw.answer (.failure kind) = sw.withoutHead := by
  obtain ⟨r, rest, queue⟩ := List.exists_cons_of_ne_nil records
  simp [answer, own, queue, dropHead_withoutHead]

end StampWriter

/-- Settles O47: the writer's answer by whose write was out and by the word written. -/
theorem stampWriterWritesOrDropsItsRecord : Obligations.StampWriterWritesOrDropsItsRecord := by
  intro s a out client
  have ok : ∀ word, exec (.memoryAnswer a.tag (.ok word)) s = .next { s.freed with sw := s.sw.answer (.ok word) } :=
    fun word => by rw [exec_answer_ok out, client]; rfl
  have failure : ∀ c kind, a.FailsBy c kind → exec c s = .next
      { s.freed with sw := s.sw.answer (.failure kind), au := s.au.withFault (a.failure kind) } := fun c kind fails => by
    rw [exec_failure out fails, client]; rfl
  refine ⟨fun discarded => ⟨fun word => ?_, fun c kind fails => ?_⟩, fun own records =>
    ⟨fun step word => ?_, fun step word => ?_, fun c kind fails => ?_⟩⟩
  · rw [ok, StampWriter.answer_of_discarded discarded]
  · rw [failure c kind fails, StampWriter.answer_of_discarded discarded]
  · rw [ok, StampWriter.answer_of_word1 own records step]
  · rw [ok, StampWriter.answer_of_word0 own records step]
  · rw [failure c kind fails, StampWriter.answer_of_failure own records]

end Sys2Proof.Machine
end

section
/-! SUPPORT. The two translation tables (sections 5.3 and 5.4), row by row, and what each row's outcome does at its port. -/
namespace Sys2Proof.Machine

/-! ### Outcomes carried out (R81, R91) -/

theorem carryOut_access (s : State) (p : PortId) (a addr : Addr) (slot : Option Slot) :
    s.carryOut p a (.access { addr := addr, slot := slot, staged := false }) = s.asking p addr slot false := by
  have plain := stageFor_of_not_staged (s := s) (t := { addr := addr, slot := slot, staged := false }) rfl a
  rw [State.carryOut, plain]
  rfl

theorem carryOut_refuse (s : State) (p : PortId) (a : Addr) (r : Reason) : s.carryOut p a (.refuse r) = s.refused p a r := by
  cases p <;> rfl

theorem carryOut_fill (s : State) (p : PortId) (a : Addr) (w : Word) : s.carryOut p a (.fill w) = s.servedOk p w := rfl

/-- A staged write takes its effect on the record, and asks. -/
theorem carryOut_staged {s : State} {a addr : Addr} {k : Slot} {offset : Nat} {d : Descriptor}
    (class_ : s.classify a = .logical k offset) (desc : (s.window k).desc = some d) :
    s.carryOut .host a (.access { addr := addr, slot := some k, staged := true }) =
      (s.setWindow k ((s.window k).stage (d.segmentOf offset))).asking .host addr (some k) true := by
  have staged := stageFor_of_staged (s := s) (t := { addr := addr, slot := some k, staged := true }) rfl class_ desc
  rw [State.carryOut, staged]
  rfl

/-! ### Rows both tables share (R87, R90) -/

theorem concealedAccess_of_defined {w : Window} (h : w.life = .defined) (k : Slot) (a : Addr) :
    concealedAccess w k a = passed a (some k) := if_neg (by rw [h]; decide)

theorem concealedAccess_of_service {w : Window} (h : w.life = .active ∨ w.life = .held ∨ w.life = .faulted) (k : Slot)
    (a : Addr) : concealedAccess w k a = .refuse .concealed := if_pos (inService_iff.2 h)

theorem carryOut_stampAccess (s : State) (p : PortId) (k : Slot) (r : Request) : s.carryOut p r.addr (stampAccess k r) =
    if opIsWrite r.op then s.refused p r.addr .stampWrite else s.asking p r.addr (some k) false := by
  unfold stampAccess
  split
  · exact carryOut_refuse ..
  · exact carryOut_access ..

/-! ### The host table (section 5.3) -/

section
variable {s : State} {r : Request} {k : Slot} {offset : Nat} {d : Descriptor}

theorem translateHost_write (write : opIsWrite r.op = true) (class_ : s.classify r.addr = .logical k offset)
    (desc : (s.window k).desc = some d) : s.translateHost r = hostWriteLogical s k (s.window k) d offset := by
  simp [State.translateHost, class_, desc, write]

theorem translateHost_read (read : opIsWrite r.op = false) (class_ : s.classify r.addr = .logical k offset)
    (desc : (s.window k).desc = some d) : s.translateHost r = hostReadLogical s k (s.window k) d offset := by
  simp [State.translateHost, class_, desc, read]

theorem translateHost_concealed (class_ : s.classify r.addr = .concealed k) :
    s.translateHost r = concealedAccess (s.window k) k r.addr := by simp [State.translateHost, class_]

theorem translateHost_stampPair (class_ : s.classify r.addr = .stampPair k) : s.translateHost r = stampAccess k r := by
  simp [State.translateHost, class_]

theorem translateHost_elsewhere (class_ : s.classify r.addr = .elsewhere) : s.translateHost r = passed r.addr none := by
  simp [State.translateHost, class_]

end

section
variable {s : State} {k : Slot} {w : Window} {d : Descriptor} {offset : Nat}

theorem hostWriteLogical_defined (h : w.life = .defined) :
    hostWriteLogical s k w d offset = bankWord k d w.live offset := by simp [hostWriteLogical, h]

theorem hostWriteLogical_staged (h : w.life = .active) (free : { slot := k, seg := d.segmentOf offset } ∉ s.re.queue) :
    hostWriteLogical s k w d offset =
      .access { addr := wordAt (d.bankBase w.live.other) offset, slot := some k, staged := true } := by
  simp [hostWriteLogical, h, has_iff, free]

theorem hostWriteLogical_parks (h : w.life = .active) (queued : { slot := k, seg := d.segmentOf offset } ∈ s.re.queue) :
    hostWriteLogical s k w d offset = .park { slot := k, seg := d.segmentOf offset } := by
  simp [hostWriteLogical, h, has_iff, queued]

theorem hostWriteLogical_held (h : w.life = .held) : hostWriteLogical s k w d offset = .refuse .held := by
  simp [hostWriteLogical, h]

theorem hostWriteLogical_faulted (h : w.life = .faulted) : hostWriteLogical s k w d offset = .refuse .faulted := by
  simp [hostWriteLogical, h]

/-- A host read sees the shadow bank of a window in ACTIVE or HELD with host view SHADOW, unless the segment has an entry
(R85). -/
theorem hostReadLogical_shadow (life : w.life = .active ∨ w.life = .held) (view : d.hostView = .shadow)
    (free : { slot := k, seg := d.segmentOf offset } ∉ s.re.queue) :
    hostReadLogical s k w d offset = bankWord k d w.live.other offset := by
  have free' : s.re.has { slot := k, seg := d.segmentOf offset } = false := Bool.eq_false_iff.2 (mt has_iff.1 free)
  rcases life with h | h <;> simp [hostReadLogical, h, view, free']

theorem hostReadLogical_live (h : ¬ ((w.life = .active ∨ w.life = .held) ∧ d.hostView = .shadow ∧
    { slot := k, seg := d.segmentOf offset } ∉ s.re.queue)) : hostReadLogical s k w d offset = bankWord k d w.live offset := by
  have rows : (w.life = .active ∨ w.life = .held) →
      ¬ (d.hostView = .shadow ∧ s.re.has { slot := k, seg := d.segmentOf offset } = false) := fun life ⟨view, free⟩ =>
    h ⟨life, view, fun queued => Bool.eq_false_iff.1 free (has_iff.2 queued)⟩
  unfold hostReadLogical
  split
  · exact if_neg (rows (.inl ‹_›))
  · exact if_neg (rows (.inr ‹_›))
  all_goals rfl

end

/-- The host port's translation is carried out in the event. -/
theorem exec_of_hostTranslates {s : State} {c : Instr} {r : Request} (h : s.HostTranslates c r) {t : Translation}
    (row : s.translateHost r = t) : exec c s = .next (s.carryOut .host r.addr t) := by
  obtain ⟨head, lanes, ⟨rfl, idle⟩ | ⟨rfl, parked, released⟩⟩ := h <;>
    obtain ⟨rest, queue⟩ := List.head?_eq_some_iff.1 head <;> refine congrArg Host.Outcome.next ?_
  · simp [State.hostTake, idle, queue, lanes, State.serveHost, row]
  · simp [State.retranslate, parked, released, queue, State.serveHost, row]

/-- Settles O49: the host table's rows for writes of a logical range. -/
theorem hostWritesAreTranslated : Obligations.HostWritesAreTranslated := by
  intro s c r k offset d taken write class_ desc
  have row := translateHost_write write class_ desc
  refine ⟨fun life => ?_, fun life free => ?_, fun life queued => ?_, fun life => ?_, fun life => ?_⟩
  · rw [exec_of_hostTranslates taken (row.trans (hostWriteLogical_defined life))]
    exact congrArg Host.Outcome.next (carryOut_access ..)
  · rw [exec_of_hostTranslates taken (row.trans (hostWriteLogical_staged life free)), carryOut_staged class_ desc]
    rfl
  · refine ⟨promoted s.re.queue s.re.copy.isSome { slot := k, seg := d.segmentOf offset },
      exec_of_hostTranslates taken (row.trans (hostWriteLogical_parks life queued)), fun h rest flies queue => ?_, fun idle => ?_⟩
    · obtain ⟨copy, inFlight⟩ := Option.ne_none_iff_exists'.1 flies
      rw [inFlight, queue]
      rfl
    · rw [idle]
      rfl
  · rw [exec_of_hostTranslates taken (row.trans (hostWriteLogical_held life)), carryOut_refuse]
  · rw [exec_of_hostTranslates taken (row.trans (hostWriteLogical_faulted life)), carryOut_refuse]

/-- Settles O50: the host table's other rows, and the port with nothing to translate. -/
theorem hostReadsAndOtherAccessesAreTranslated : Obligations.HostReadsAndOtherAccessesAreTranslated := by
  refine fun s c r => ⟨fun taken => ⟨fun k offset d read class_ desc => ?_, fun k class_ => ⟨fun life => ?_, fun life => ?_⟩,
    fun k class_ => ?_, fun class_ => ?_⟩, fun idle head noLane => ?_, fun idle empty => ?_, fun busy => ?_, fun waits => ?_⟩
  · have row := translateHost_read read class_ desc
    dsimp only
    split
    · rename_i h
      obtain ⟨life, view, free⟩ := h
      rw [exec_of_hostTranslates taken (row.trans (hostReadLogical_shadow life view free))]
      exact congrArg Host.Outcome.next (carryOut_access ..)
    · rename_i h
      rw [exec_of_hostTranslates taken (row.trans (hostReadLogical_live h))]
      exact congrArg Host.Outcome.next (carryOut_access ..)
  · rw [exec_of_hostTranslates taken ((translateHost_concealed class_).trans (concealedAccess_of_defined life k r.addr))]
    exact congrArg Host.Outcome.next (carryOut_access ..)
  · rw [exec_of_hostTranslates taken ((translateHost_concealed class_).trans (concealedAccess_of_service life k r.addr)),
      carryOut_refuse]
  · rw [exec_of_hostTranslates taken (translateHost_stampPair class_), carryOut_stampAccess]
  · rw [exec_of_hostTranslates taken (translateHost_elsewhere class_)]
    exact congrArg Host.Outcome.next (carryOut_access ..)
  · obtain ⟨rest, queue⟩ := List.head?_eq_some_iff.1 head
    refine congrArg Host.Outcome.next ?_
    simp only [State.hostTake, idle, queue, noLane, if_true]
    rfl
  · refine congrArg Host.Outcome.next ?_
    simp [State.hostTake, idle, empty]
  · rcases hostTake_cases s with same | ⟨_, _, idle, -⟩
    · exact congrArg Host.Outcome.next same
    · exact absurd idle busy
  · rcases retranslate_cases s with same | ⟨_, _, parked, released, -⟩
    · exact congrArg Host.Outcome.next same
    · exact absurd released (waits.resolve_left (absurd parked))

/-! ### The consumer table (section 5.4) -/

section
variable {s : State} {r : Request} {k : Slot} {offset : Nat} {d : Descriptor}

theorem translateConsumer_write (write : opIsWrite r.op = true) (class_ : s.classify r.addr = .logical k offset)
    (desc : (s.window k).desc = some d) : s.translateConsumer r = .refuse .consumerWrite := by
  simp [State.translateConsumer, class_, desc, write]

theorem translateConsumer_read (read : opIsWrite r.op = false) (class_ : s.classify r.addr = .logical k offset)
    (desc : (s.window k).desc = some d) : s.translateConsumer r = consumerReadLogical s k (s.window k) d offset := by
  simp [State.translateConsumer, class_, desc, read]

theorem translateConsumer_concealed (class_ : s.classify r.addr = .concealed k) :
    s.translateConsumer r = concealedAccess (s.window k) k r.addr := by simp [State.translateConsumer, class_]

theorem translateConsumer_stampPair (class_ : s.classify r.addr = .stampPair k) :
    s.translateConsumer r = stampAccess k r := by simp [State.translateConsumer, class_]

theorem translateConsumer_elsewhere (class_ : s.classify r.addr = .elsewhere) :
    s.translateConsumer r = passed r.addr none := by simp [State.translateConsumer, class_]

variable {w : Window}

theorem consumerReadLogical_live (h : w.life = .defined ∨ (s.tu.entry k).view = .live) :
    consumerReadLogical s k w d offset = bankWord k d w.live offset := by
  refine if_neg fun ⟨service, safe⟩ => ?_
  rcases h with life | live
  · rw [life] at service
    cases service
  · cases live.symm.trans safe

theorem consumerReadLogical_safe (service : w.life = .active ∨ w.life = .held ∨ w.life = .faulted)
    (safe : (s.tu.entry k).view = .safe) {base : Addr} (region : d.safeBase = some base) :
    consumerReadLogical s k w d offset = .access { addr := wordAt base offset, slot := some k, staged := false } := by
  rw [consumerReadLogical, if_pos ⟨inService_iff.2 service, safe⟩, region]

theorem consumerReadLogical_fill (service : w.life = .active ∨ w.life = .held ∨ w.life = .faulted)
    (safe : (s.tu.entry k).view = .safe) (absent : d.safeBase = none) :
    consumerReadLogical s k w d offset = .fill d.fillWord := by
  rw [consumerReadLogical, if_pos ⟨inService_iff.2 service, safe⟩, absent]

end

/-- Settles O51: the consumer table's rows, and the port with nothing to translate. -/
theorem consumerRequestsAreTranslated : Obligations.ConsumerRequestsAreTranslated := by
  refine fun s => ⟨fun busy => ?_, fun r rest idle queue => ⟨fun noLane => ?_, fun lanes => ?_⟩⟩
  · rcases consumerTake_cases s with same | ⟨r, rest, idle, queue, -⟩
    · exact congrArg Host.Outcome.next same
    · rcases busy with serving | empty
      · exact absurd idle serving
      · cases queue.symm.trans empty
  · refine congrArg Host.Outcome.next ?_
    simp only [State.consumerTake, idle, queue, noLane, if_true]
    rfl
  have taken : ∀ {t}, s.translateConsumer r = t → exec .consumerTakeInService s = .next (s.carryOut .consumer r.addr t) :=
    fun row => congrArg Host.Outcome.next (by simp [State.consumerTake, idle, queue, lanes, row])
  refine ⟨fun k offset d class_ desc => ⟨fun write => ?_, fun read => ?_⟩, fun k class_ => ⟨fun life => ?_, fun life => ?_⟩,
    fun k class_ => ?_, fun class_ => ?_⟩
  · rw [taken (translateConsumer_write write class_ desc), carryOut_refuse]
  · have row := translateConsumer_read read class_ desc
    refine ⟨fun live => ?_, fun service safe => ⟨fun base region => ?_, fun absent => ?_⟩⟩
    · rw [taken (row.trans (consumerReadLogical_live live))]
      exact congrArg Host.Outcome.next (carryOut_access ..)
    · rw [taken (row.trans (consumerReadLogical_safe service safe region)), carryOut_access]
      rfl
    · rw [taken (row.trans (consumerReadLogical_fill service safe absent)), carryOut_fill]
  · rw [taken ((translateConsumer_concealed class_).trans (concealedAccess_of_defined life k r.addr))]
    exact congrArg Host.Outcome.next (carryOut_access ..)
  · rw [taken ((translateConsumer_concealed class_).trans (concealedAccess_of_service life k r.addr)), carryOut_refuse]
  · rw [taken (translateConsumer_stampPair class_), carryOut_stampAccess]
  · rw [taken (translateConsumer_elsewhere class_)]
    exact congrArg Host.Outcome.next (carryOut_access ..)

end Sys2Proof.Machine
end

section
/-! SUPPORT. The queues of the two ports (section 5.1): every command and every idle clock answers requests from the head of
a port's queue, and accepts offers held off behind the others. -/
namespace Sys2Proof.Machine

/-! ### One event at a port (R78, R79) -/

/-- A port whose first requests have been answered, and which then accepts offers as far as there is room. -/
def Port.advanced (q : Port) (answered : Nat) (offered : List Request) : Port :=
  Port.acceptHeldOff { queue := q.queue.drop answered, service := .idle, offers := q.offers ++ offered }

/-- A port's queue is left alone, or some of its first requests are answered, or an offer is made at it. -/
inductive PortStep (s t : State) (p : PortId) (offered : List Request) : Prop
  | rests (given : t.given p = s.given p) (queue : (t.port p).queue = (s.port p).queue)
      (offers : (t.port p).offers = (s.port p).offers) (quiet : offered = [])
  | advances (given : List PortResponse) (answered : t.given p = s.given p ++ given)
      (accepted : given.length ≤ (s.port p).queue.length) (single : offered = [] ∨ given = [])
      (queue : (t.port p).queue = ((s.port p).advanced given.length offered).queue)
      (offers : (t.port p).offers = ((s.port p).advanced given.length offered).offers)

/-- Requests are answered in order, once each, and offers wait only for room. -/
theorem PortStep.moves {s t : State} {p : PortId} {offered : List Request} (h : PortStep s t p offered) :
    PortMoves s t p offered := by
  cases h with
  | rests given queue offers quiet =>
    refine ⟨⟨[], by simp [given], Nat.zero_le _, by simp [queue, offers, quiet], by simp [queue]⟩, fun held => ?_⟩
    rwa [queue, offers]
  | advances given answered accepted single queue offers =>
    refine ⟨⟨given, answered, accepted, ?_, ?_⟩, fun _ waits => ?_⟩
    · rw [queue, offers, List.append_assoc]
      exact acceptHeldOff_keeps _
    · rw [queue]
      exact List.prefix_append ..
    · rw [queue]
      rw [offers] at waits
      exact acceptHeldOff_full waits

/-- A full queue takes as many of the offers held off as requests leave it. -/
theorem PortStep.of_full {s t : State} {p : PortId} {offered : List Request} (h : PortStep s t p offered)
    (full : (s.port p).queue.length = 4) : ∃ given, t.given p = s.given p ++ given ∧
      (t.port p).queue = (s.port p).queue.drop given.length ++ (s.port p).offers.take given.length ∧
      (t.port p).offers = (s.port p).offers.drop given.length ++ offered := by
  cases h with
  | rests given queue offers quiet => exact ⟨[], by simp [given], by simp [queue], by simp [offers, quiet]⟩
  | advances given answered accepted single queue offers =>
    have room : 4 - ((s.port p).queue.drop given.length).length = given.length := by rw [List.length_drop]; omega
    simp only [Port.advanced, Port.acceptHeldOff, Config.portCapacity, room] at queue offers
    refine ⟨given, answered, ?_, ?_⟩
    · rcases single with rfl | rfl
      · rw [queue, List.append_nil]
      · rw [queue]
        rfl
    · rcases single with rfl | rfl
      · rw [offers, List.append_nil, List.append_nil]
      · exact offers

/-! ### What each effect does at the ports -/

/-- An event that offers nothing, at both ports. -/
structure PortsStep (s t : State) : Prop where
  port : ∀ p, PortStep s t p []

theorem PortsStep.of_queues {s t : State} (out : t.out.host = s.out.host ∧ t.out.consumer = s.out.consumer)
    (queue : ∀ p, (t.port p).queue = (s.port p).queue ∧ (t.port p).offers = (s.port p).offers) : PortsStep s t where
  port p := by
    obtain ⟨host, consumer⟩ := out
    obtain ⟨queue, offers⟩ := queue p
    exact .rests (by cases p; exacts [host, consumer]) queue offers rfl

theorem PortsStep.of_kept {s t : State} (hp : t.hp = s.hp) (cp : t.cp = s.cp) (out : t.out = s.out) : PortsStep s t :=
  .of_queues (by rw [out]; exact ⟨rfl, rfl⟩) fun p => by
    cases p
    · exact ⟨congrArg Port.queue hp, congrArg Port.offers hp⟩
    · exact ⟨congrArg Port.queue cp, congrArg Port.offers cp⟩

theorem MemoryKept.portsStep {s t : State} (h : MemoryKept s t) : PortsStep s t := .of_kept h.hp h.cp h.out

/-- An event that starts from a state with the same ports. -/
theorem PortsStep.after {s s' t : State} (h : PortsStep s' t) (hp : s'.hp = s.hp) (cp : s'.cp = s.cp)
    (out : s'.out = s.out) : PortsStep s t where
  port p := by
    have port : s'.port p = s.port p := by cases p; exacts [hp, cp]
    have given : s'.given p = s.given p := by cases p <;> simp only [State.given, out]
    cases h.port p with
    | rests g queue offers quiet => exact .rests (given ▸ g) (port ▸ queue) (port ▸ offers) quiet
    | advances g answered accepted single queue offers =>
      exact .advances g (given ▸ answered) (port ▸ accepted) single (port ▸ queue) (port ▸ offers)

theorem PortsStep.before {s t t' : State} (h : PortsStep s t) (hp : t'.hp = t.hp) (cp : t'.cp = t.cp)
    (out : t'.out = t.out) : PortsStep s t' where
  port p := by
    have port : t'.port p = t.port p := by cases p; exacts [hp, cp]
    have given : t'.given p = t.given p := by cases p <;> simp only [State.given, out]
    cases h.port p with
    | rests g queue offers quiet => exact .rests (given.trans g) (port ▸ queue) (port ▸ offers) quiet
    | advances g answered accepted single queue offers =>
      exact .advances g (given.trans answered) accepted single (port ▸ queue) (port ▸ offers)

/-- The head request is answered (R79). -/
theorem portsStep_answerHead {s : State} {p : PortId} (head : (s.port p).queue ≠ []) (r : PortResponse) :
    PortsStep s (s.answerHead p r) where
  port j := by
    have one : [r].length ≤ (s.port p).queue.length := List.length_pos_iff.2 head
    have left : (s.port p).dropHead = (s.port p).advanced 1 [] := by
      simp [Port.dropHead, Port.advanced, Port.acceptHeldOff]
    cases p <;> cases j
    · exact .advances [r] rfl one (.inl rfl) (congrArg Port.queue left) (congrArg Port.offers left)
    · exact .rests rfl rfl rfl rfl
    · exact .rests rfl rfl rfl rfl
    · exact .advances [r] rfl one (.inl rfl) (congrArg Port.queue left) (congrArg Port.offers left)

theorem portsStep_carryOut {s : State} {p : PortId} (head : (s.port p).queue ≠ []) (a : Addr) (tr : Translation) :
    PortsStep s (s.carryOut p a tr) := by
  cases tr with
  | access t =>
    have staged : (s.stageFor t a).hp = s.hp ∧ (s.stageFor t a).cp = s.cp ∧ (s.stageFor t a).out = s.out := by
      unfold State.stageFor
      split
      · split <;> exact ⟨rfl, rfl, rfl⟩
      · exact ⟨rfl, rfl, rfl⟩
    obtain ⟨hp, cp, out⟩ := staged
    have asks : PortsStep (s.stageFor t a) ((s.stageFor t a).request p t) :=
      .of_queues (by cases p <;> exact ⟨rfl, rfl⟩) fun j => by cases p <;> cases j <;> exact ⟨rfl, rfl⟩
    exact asks.after hp cp out
  | refuse r => exact (portsStep_answerHead head (.refuse r)).before rfl rfl rfl
  | fill w => exact portsStep_answerHead head (.ok w)
  | park e => exact .of_queues (by cases p <;> exact ⟨rfl, rfl⟩) fun j => by cases p <;> cases j <;> exact ⟨rfl, rfl⟩

/-- What a client takes: at a port's client the head is answered, with FAULT at a failure. -/
theorem portsStep_answerClient (s : State) (c : Client) (ans : ClientAnswer) : PortsStep s (s.answerClient c ans) := by
  cases c
  case hp =>
    rcases awaiting_cases s.hp with ⟨t, r, rest, service, queue⟩ | deaf
    · have head : s.hp.queue ≠ [] := by simp [queue]
      obtain ⟨ok, failure⟩ := answerHost_of_awaiting service queue
      cases ans with
      | ok word =>
        rw [State.answerClient, ok]
        split
        · have answered : PortsStep (s.complete t) ((s.complete t).answerHead .host (okResponse r.op word)) :=
            portsStep_answerHead (by rw [port_host, hp_complete]; exact head) _
          rw [complete_eq] at answered ⊢
          exact answered.after rfl rfl rfl
        · exact portsStep_answerHead (p := .host) head _
      | failure kind =>
        rw [State.answerClient, failure]
        exact portsStep_answerHead (p := .host) head _
    · rw [State.answerClient, answerHost_of_deaf deaf]
      exact .of_kept rfl rfl rfl
  case cp =>
    rcases awaiting_cases s.cp with ⟨t, r, rest, service, queue⟩ | deaf
    · have head : s.cp.queue ≠ [] := by simp [queue]
      obtain ⟨ok, failure⟩ := answerConsumer_of_awaiting service queue
      cases ans with
      | ok word =>
        rw [State.answerClient, ok]
        exact portsStep_answerHead (p := .consumer) head _
      | failure kind =>
        rw [State.answerClient, failure]
        exact portsStep_answerHead (p := .consumer) head _
    · rw [State.answerClient, answerConsumer_of_deaf deaf]
      exact .of_kept rfl rfl rfl
  case re =>
    rcases answerResync_cases s ans with ⟨-, e⟩ | ⟨-, e⟩ | ⟨-, c, e', rest, -, -, ⟨w, -, e⟩ | ⟨k, -, e⟩⟩ <;>
      rw [State.answerClient, e] <;> exact .of_kept rfl rfl rfl
  case sw => exact .of_kept rfl rfl rfl

theorem portsStep_endAccess (s : State) (a : AwaitingAccess) (ans : ClientAnswer) :
    PortsStep s (s.endAccess a.access ans) := by
  cases ans with
  | ok word => exact (portsStep_answerClient s.freed a.access.client (.ok word)).after rfl rfl rfl
  | failure kind =>
    rw [endAccess_failure]
    exact (portsStep_answerClient _ a.access.client (.failure kind)).after rfl rfl rfl

theorem portsStep_issue (s : State) (a : Access) (n : Nat) : PortsStep s (s.issue a n) := by
  have granted : ∀ q : Port, q.granted.queue = q.queue ∧ q.granted.offers = q.offers := fun q => by
    rcases granted_cases q with ⟨t, -, e⟩ | ⟨-, e⟩ <;> rw [e] <;> exact ⟨rfl, rfl⟩
  have outs : (s.issue a n).out.host = s.out.host ∧ (s.issue a n).out.consumer = s.out.consumer := by
    rw [issue_eq]
    exact ⟨rfl, rfl⟩
  refine .of_queues outs fun p => ?_
  cases p
  · rw [port_host, port_host, hp_issue]
    split
    · exact granted _
    · exact ⟨rfl, rfl⟩
  · rw [port_consumer, port_consumer, cp_issue]
    split
    · exact granted _
    · exact ⟨rfl, rfl⟩

/-- The bridge's own events, offers apart, step the ports. -/
theorem respects_portsStep : Respects PortsStep where
  refl _ := .of_kept rfl rfl rfl
  link _ _ := .of_kept rfl rfl rfl
  answer _ _ r head := portsStep_answerHead head r
  carry _ _ a tr head := portsStep_carryOut head a tr
  issue := portsStep_issue
  ended := portsStep_endAccess
  inFlight _ _ := .of_kept rfl rfl rfl
  count s := (clockRespects_memoryKept.countStep s).portsStep
  line s l := (clockRespects_memoryKept.sampleLine { s with pins := { s.pins with bnd := l } }).portsStep.after rfl rfl rfl
  watch s := (clockRespects_memoryKept.watchCount s).portsStep
  trip s l := (clockRespects_memoryKept.sampleTrip { s with pins := { s.pins with trp := l } }).portsStep.after rfl rfl rfl

theorem portsStep_takeBoundary (s : State) (k : Slot) : PortsStep s (s.takeBoundary k) := by
  rcases takeBoundary_cases s k with e | ⟨b, rest, d, -, -, ⟨-, e⟩ | ⟨-, e⟩⟩ <;> rw [e]
  · exact .of_kept rfl rfl rfl
  · exact .of_kept rfl rfl rfl
  · rcases eligible_cases (s.setWindow k { s.window k with inbox := rest, cadenceCount := 0 }) k d b.seq with
      ⟨-, e⟩ | ⟨-, -, e⟩ | ⟨-, -, e⟩ <;> rw [e] <;> exact .of_kept (by simp) (by simp) (by simp)

theorem portsStep_softReset (s : State) : PortsStep s s.softReset where
  port p := by
    have all : ∀ q : Port, q.emptied = q.advanced (abortedResponses q).length [] := fun q => by
      simp [Port.emptied, Port.advanced, Port.acceptHeldOff, abortedResponses]
    have each : ∀ q : Port, (abortedResponses q).length ≤ q.queue.length := fun q => by simp [abortedResponses]
    cases p
    · exact .advances (abortedResponses s.hp) rfl (each s.hp) (.inl rfl) (congrArg Port.queue (all s.hp))
        (congrArg Port.offers (all s.hp))
    · exact .advances (abortedResponses s.cp) rfl (each s.cp) (.inl rfl) (congrArg Port.queue (all s.cp))
        (congrArg Port.offers (all s.cp))

/-- An offer made at a port (R78). -/
theorem portStep_offer (s : State) (p : PortId) (r : Request) (j : PortId) :
    PortStep s (s.setPort p ((s.port p).offered r)) j ((Instr.requestAccept p r).offersAt j) := by
  cases p <;> cases j
  · exact .advances [] (List.append_nil _).symm (Nat.zero_le _) (.inr rfl) rfl rfl
  · exact .rests rfl rfl rfl rfl
  · exact .rests rfl rfl rfl rfl
  · exact .advances [] (List.append_nil _).symm (Nat.zero_le _) (.inr rfl) rfl rfl

/-! ### Every command and every idle clock -/

theorem portsStep_link {c : Instr} {s t : State} (body : c = .softReset ∨ ∃ act, ownerOf c = some act)
    (h : exec c s = .next t) : PortsStep s t := by
  rcases body with rfl | ⟨act, owner⟩
  · obtain rfl := next_inj h
    split
    · exact .of_kept rfl rfl rfl
    · exact (portsStep_softReset s).before rfl rfl rfl
  · rw [exec_of_owner owner] at h
    obtain rfl := next_inj h
    have frame := frame_of_ownerOf owner s
    rcases takeCommand_cases s c act with e | ⟨ml, e, -⟩ <;> rw [e]
    · exact .of_kept rfl rfl rfl
    · exact .of_kept frame.hp frame.cp frame.out

theorem portStep_exec {c : Instr} {s t : State} (reset : ∀ b, c ≠ .fullReset b) (h : exec c s = .next t) (p : PortId) :
    PortStep s t p (c.offersAt p) := by
  by_cases offers : ∃ q r, c = .requestAccept q r
  · obtain ⟨q, r, rfl⟩ := offers
    obtain rfl := next_inj h
    exact portStep_offer s q r p
  have quiet : c.offersAt p = [] := by
    cases c
    case requestAccept q r => exact absurd ⟨q, r, rfl⟩ offers
    all_goals rfl
  rw [quiet]
  refine PortsStep.port ?_ p
  rcases command_cases c with soft | owner | ⟨b, full⟩ | ⟨bits, rfl⟩ | ⟨body, -, frame⟩
  · exact portsStep_link (.inl soft) h
  · exact portsStep_link (.inr owner) h
  · exact absurd full (reset b)
  · rcases exec_frameNotTaken_cases bits s with ⟨ml, e⟩ | ⟨c, -, body, e⟩
    · obtain rfl := next_inj (e.symm.trans h)
      exact .of_kept rfl rfl rfl
    · exact portsStep_link (commandBody_isSome_iff.1 body) (e ▸ h)
  · obtain ⟨u, e, stepped⟩ := respects_portsStep.exec body reset frame s (fun q r no => absurd ⟨q, r, no⟩ offers)
      fun k _ => portsStep_takeBoundary s k
    obtain rfl := next_inj (e.symm.trans h)
    exact stepped

theorem portsStep_tick (s : State) : PortsStep s s.tick := by
  have kept := clockRespects_memoryKept.tick s
  refine PortsStep.before ?_ kept.hp kept.cp kept.out
  rcases clockMemory_cases { s with choices := s.choices + 1 } with ⟨-, e⟩ | ⟨a, -, ⟨-, e⟩ | ⟨-, e⟩⟩ <;> rw [e]
  · exact .of_kept rfl rfl rfl
  · exact .of_kept rfl rfl rfl
  · exact (respects_portsStep.timeOut _).after rfl rfl rfl

/-- A failure answers the head of at most one port, with FAULT (R95). -/
theorem given_answerClient_failure (s : State) (c : Client) (kind : FaultKind) (p : PortId) :
    (s.answerClient c (.failure kind)).given p = s.given p ∨
      (s.answerClient c (.failure kind)).given p = s.given p ++ [{ code := .fault, data := 0 }] := by
  cases c
  case hp =>
    rcases awaiting_cases s.hp with ⟨t, r, rest, service, queue⟩ | deaf
    · obtain ⟨-, failure⟩ := answerHost_of_awaiting service queue
      rw [State.answerClient, failure]
      cases p
      exacts [.inr rfl, .inl rfl]
    · rw [State.answerClient, answerHost_of_deaf deaf]
      exact .inl rfl
  case cp =>
    rcases awaiting_cases s.cp with ⟨t, r, rest, service, queue⟩ | deaf
    · obtain ⟨-, failure⟩ := answerConsumer_of_awaiting service queue
      rw [State.answerClient, failure]
      cases p
      exacts [.inl rfl, .inr rfl]
    · rw [State.answerClient, answerConsumer_of_deaf deaf]
      exact .inl rfl
  case re =>
    refine .inl ?_
    rcases answerResync_cases s (.failure kind) with ⟨-, e⟩ | ⟨-, e⟩ | ⟨-, c, e', rest, -, -, ⟨w, -, e⟩ | ⟨k, -, e⟩⟩ <;>
      rw [State.answerClient, e] <;> cases p <;> rfl
  case sw => exact .inl (by cases p <;> rfl)

theorem given_tick (s : State) (p : PortId) : s.tick.given p = s.given p ∨
    s.tick.given p = s.given p ++ [{ code := .fault, data := 0 }] := by
  have kept : s.tick.given p = ({ s with choices := s.choices + 1 } : State).clockMemory.given p := by
    have out := (clockRespects_memoryKept.tick s).out
    cases p <;> simp only [State.given, out]
  have same : ({ s with choices := s.choices + 1 } : State).given p = s.given p := by cases p <;> rfl
  rw [kept, ← same]
  rcases clockMemory_cases { s with choices := s.choices + 1 } with ⟨-, e⟩ | ⟨a, -, ⟨-, e⟩ | ⟨-, e⟩⟩ <;> rw [e]
  · exact .inl rfl
  · exact .inl (by cases p <;> rfl)
  · rcases timeOut_cases { s with choices := s.choices + 1 } with e | ⟨a, -, -, e⟩ <;> rw [e]
    · exact .inl rfl
    · rw [endAccess_failure]
      exact given_answerClient_failure _ a.access.client .timeout p

/-! ### The statements -/

theorem step_of_empty {s t : State} (empty : s.pending = []) (h : step s = .next t) : s.tick = t := by
  rw [step, empty] at h
  exact next_inj h

/-- Settles O53: every event answers from the head and accepts at the tail; a timeout's answer is FAULT. -/
theorem eachRequestIsAnsweredOnceInOrder : Obligations.EachRequestIsAnsweredOnceInOrder := by
  refine fun s t p => ⟨fun c reset h => (portStep_exec reset h p).moves, fun empty h => ?_⟩
  obtain rfl := step_of_empty empty h
  exact ⟨((portsStep_tick s).port p).moves, given_tick s p⟩

/-- Settles O48: an offer joins behind those held off, as far as there is room; a full queue has room for as many as leave. -/
theorem offersAreAcceptedWhileThereIsRoom : Obligations.OffersAreAcceptedWhileThereIsRoom := by
  refine fun s p => ⟨fun r => ⟨fun room => congrArg Host.Outcome.next ?_, fun crowded => congrArg Host.Outcome.next ?_⟩,
    fun full => ⟨fun c t reset h => (portStep_exec reset h p).of_full full, fun t empty h => ?_⟩⟩
  · have joins : (s.port p).offers.length + 1 ≤ 4 - (s.port p).queue.length := by omega
    simp [Port.offered, Port.acceptHeldOff, Config.portCapacity, List.take_of_length_le, List.drop_of_length_le, joins]
  · have waits : 4 - (s.port p).queue.length ≤ (s.port p).offers.length := by omega
    simp only [Port.offered, Port.acceptHeldOff, Config.portCapacity, List.take_append_of_le_length waits,
      List.drop_append_of_le_length waits]
  · obtain rfl := step_of_empty empty h
    simpa using ((portsStep_tick s).port p).of_full full

end Sys2Proof.Machine
end
